-- ==== Sys2Proof/Word.lean ====
section
/-! DEFINITION. The widths of the encoder's data: input bytes, output symbol codes and selector words. -/

namespace Sys2Proof

/-- An input byte, a header byte, a checksum byte or an 8-bit register (00_scope.md R8, 10_state.md R10). -/
abbrev Byte := BitVec 8

/-- The code of one output symbol, as `out_sym[7:0]` and `OUTC` carry it (30_encoding.md R52, decision D16). -/
abbrev Sym := BitVec 8

/-- The 11-bit selector word, `sel[10] = S`, `sel[9] = L`, `sel[8] = Z`, `sel[7:0] = b` (30_encoding.md R57). -/
abbrev Selector := BitVec 11

end Sys2Proof
end

