-- ==== Sys2Proof/Config.lean ====
section
/-! DEFINITION. The constants that the hardware fixes. The two OPEN parameters of 00_scope.md R8 are not constants here:
`OUT_CAPACITY` is the field `State.outCapacity`, and `BURST_LATENCY` comes with each clock edge (`Edge.lag`),
so that a statement about every state and every edge holds for every value of both. -/

namespace Sys2Proof.Config

/-- BIT_ZERO, a data bit equal to 0 (30_encoding.md R52). -/
def bitZero : Sym := 0x00#8

/-- BIT_ONE, a data bit equal to 1 (30_encoding.md R52). -/
def bitOne : Sym := 0x01#8

/-- IDLE, no data during this symbol time (30_encoding.md R52). -/
def idleSym : Sym := 0xFF#8

/-- `HDR`, the ten header bytes: six of preamble, four of start-of-frame (30_encoding.md R53, decision D17).
UNVERIFIED (notes/assumptions/14.md): the literal is unaudited (93_implementation_defined.md U13), so it stands in
this one place. -/
def hdr : List Byte :=
  [0xA5#8, 0xF0#8, 0xA5#8, 0xF0#8, 0xA5#8, 0xF0#8, 0x7E#8, 0x81#8, 0xC3#8, 0x3C#8]

/-- `GAP_LEN`, the idle byte-times sent after a frame's checksum (00_scope.md R8, 30_encoding.md R55). -/
def gapLen : Nat := 2

/-- The code of the one exception, OutputExhausted (60_exceptions.md R140). -/
def outputExhaustedCode : Nat := 1

end Sys2Proof.Config
end

