-- ==== Sys2Proof/Machine/Checksum.lean ====
section
/-! DEFINITION. The Fletcher-style checksum accumulator (42_checksum.md). -/

namespace Sys2Proof.Machine

/-- CK_RESET (42_checksum.md R100). -/
def ckReset : Byte × Byte := (0#8, 0#8)

/-- `zext_9(a) + zext_9(b)`, reduced mod 255 and kept in 8 bits (42_checksum.md R101). -/
def addMod255 (a b : Byte) : Byte :=
  ((a.setWidth 9 + b.setWidth 9) % 255#9).setWidth 8

/-- CK_FOLD: `sum1` takes the byte, and `sum2` takes the updated `sum1` (42_checksum.md R101). -/
def ckFold (acc : Byte × Byte) (b : Byte) : Byte × Byte :=
  (addMod255 acc.1 b, addMod255 acc.2 (addMod255 acc.1 b))

/-- CK_FINAL: the two checksum bytes, CK1 and CK2 (42_checksum.md R102). -/
def ckFinal (acc : Byte × Byte) : Byte × Byte :=
  (acc.1 % 255#8, acc.2 % 255#8)

end Sys2Proof.Machine
end

