-- ==== Sys2Proof/Syntax.lean ====
section
/-! DEFINITION. The four per-byte operations of the frame state machine, which the spec names the block's instructions
(00_scope.md R2): one constructor for each row of spec/opcode_table.json. -/

namespace Sys2Proof

/-- One operation with the free fields of its selector word (30_encoding.md R58).
`b` is the input byte, the only operand (R51). `z` is the selector's `Z` bit where the row leaves it free;
it repeats `b = 0x00`, and a `z` that does not is ill-formed (`Instr.wf`, R60). -/
inductive Instr where
  /-- IDLE_FILL, `1 0 1 00000000`: byte 0x00 in state IDLE (40_frame_state_machine.md R70). -/
  | idleFill
  /-- FRAME_START, `1 0 0 bbbbbbbb`: the length byte (R71). -/
  | frameStart (b : Byte)
  /-- PAYLOAD, `0 0 z bbbbbbbb`: a payload byte that does not close the frame (R72). -/
  | payload (z : Bool) (b : Byte)
  /-- PAYLOAD_LAST, `0 1 z bbbbbbbb`: the payload byte that closes the frame (R73). -/
  | payloadLast (z : Bool) (b : Byte)
deriving DecidableEq, Repr

end Sys2Proof
end

