-- ==== Sys2Proof/WellFormed.lean ====
section
/-! DEFINITION. Which operation terms stand for a selector word that can arise (30_encoding.md R60). -/

namespace Sys2Proof

/-- An operation is well-formed when its selector word is one that R57 can build:
a length byte is not 0x00, and `Z` is 1 exactly when the byte is 0x00 (30_encoding.md R60,
93_implementation_defined.md U1 and U2). -/
def Instr.wf : Instr → Bool
  | .idleFill => true
  | .frameStart b => b != 0#8
  | .payload z b => z == (b == 0#8)
  | .payloadLast z b => z == (b == 0#8)

end Sys2Proof
end

