-- ==== Sys2Proof/Decode.lean ====
section
/-! DEFINITION. The operation map: decoding a selector word by the table's match and mask, and encoding an operation
(30_encoding.md R57 to R60). -/

namespace Sys2Proof

/-- The operation names of the map (30_encoding.md R58). -/
inductive OpName where
  | idleFill | frameStart | payload | payloadLast
deriving DecidableEq, Repr

/-- One row of the operation map: a selector matches it when `(sel & mask) = pattern` (30_encoding.md R58). -/
structure OpRow where
  name : OpName
  pattern : Selector
  mask : Selector
deriving DecidableEq, Repr

/-- Why a word is no operation. -/
inductive DecodeError where
  /-- `S = 1, L = 1` (0x600 to 0x7FF): `L` requires `S = 0` (30_encoding.md R60). -/
  | lastWhileIdle
  /-- `S = 1, L = 0, Z = 1` with `b ≠ 0`: `Z` is computed from `b` (30_encoding.md R60). -/
  | zeroFlagOnNonzeroByte
  /-- The word has a bit above bit 10, so it is no selector word (30_encoding.md R57). -/
  | notASelector
deriving DecidableEq, Repr

/-- What the decoder answers. -/
inductive Decoded where
  | op (i : Instr)
  | rejected (e : DecodeError)
deriving DecidableEq, Repr

/-- The operation map of 30_encoding.md R58, row by row. -/
def opRows : List OpRow :=
  [⟨.idleFill, 0x500#11, 0x7FF#11⟩,
   ⟨.frameStart, 0x400#11, 0x700#11⟩,
   ⟨.payload, 0x000#11, 0x600#11⟩,
   ⟨.payloadLast, 0x200#11, 0x600#11⟩]

/-- `(sel & mask) = match` (30_encoding.md R58). -/
def OpRow.accepts (r : OpRow) (sel : Selector) : Bool := (sel &&& r.mask) == r.pattern

/-- `sel[7:0]`, the byte (30_encoding.md R57). -/
def selByte (sel : Selector) : Byte := sel.extractLsb' 0 8

/-- `sel[8]`, the flag `Z` (30_encoding.md R57). -/
def selZ (sel : Selector) : Bool := sel.getLsbD 8

/-- `sel[9]`, the flag `L` (30_encoding.md R57). -/
def selL (sel : Selector) : Bool := sel.getLsbD 9

/-- `sel[10]`, the flag `S` (30_encoding.md R57). -/
def selS (sel : Selector) : Bool := sel.getLsbD 10

/-- The operation of a row, with the fields that the row leaves free read from the word. -/
def OpName.withFields (n : OpName) (sel : Selector) : Instr :=
  match n with
  | .idleFill => .idleFill
  | .frameStart => .frameStart (selByte sel)
  | .payload => .payload (selZ sel) (selByte sel)
  | .payloadLast => .payloadLast (selZ sel) (selByte sel)

/-- The decoder: the row that accepts the word (30_encoding.md R58), or a rejection by name for the words that
no row accepts (R60). DESIGN CHOICE (notes/assumptions/7.md): a word of a row that cannot arise decodes to an ill-formed
operation, which every meaning refuses (`Instr.wf`). -/
def decode (sel : Selector) : Decoded :=
  match opRows.find? (fun r => r.accepts sel) with
  | some r => .op (r.name.withFields sel)
  | none => .rejected (if selL sel then .lastWhileIdle else .zeroFlagOnNonzeroByte)

/-- A selector word from its four fields (30_encoding.md R57). -/
def packSelector (s l z : Bool) (b : Byte) : Selector :=
  BitVec.cons s (BitVec.cons l (BitVec.cons z b))

/-- The selector word of an operation (30_encoding.md R58). -/
def encode : Instr → Selector
  | .idleFill => packSelector true false true 0x00#8
  | .frameStart b => packSelector true false false b
  | .payload z b => packSelector false false z b
  | .payloadLast z b => packSelector false true z b

/-- The decoder on any number: a number with a bit above bit 10 is no selector word. -/
def decodeNat (w : Nat) : Decoded :=
  if w < 2 ^ 11 then decode (BitVec.ofNat 11 w) else .rejected .notASelector

/-- The operation that the decoder reads from the low `nbits` bits of `w`, numbered as the opcode table numbers them. -/
def decodeTableWord (nbits w : Nat) : Option Instr :=
  match decodeNat (w % 2 ^ nbits) with
  | .op i => some i
  | .rejected _ => none

end Sys2Proof
end

