-- ==== Sys2Proof/Machine/State.lean ====
section
/-! DEFINITION. The state of one encoder, and the reasons a step can stop. -/

namespace Sys2Proof.Machine

/-- The architectural state `st` of one encoder (10_state.md R10). -/
structure EncoderState where
  /-- `st.idle`: true in state IDLE, false in state IN_FRAME (R11). -/
  idle : Bool
  /-- `st.remaining`: payload bytes still owed before the frame closes (R12). -/
  remaining : Byte
  /-- `st.sum1`: the first running sum, 0 to 254 (R13). -/
  sum1 : Byte
  /-- `st.sum2`: the second running sum, 0 to 254 (R13). -/
  sum2 : Byte
  /-- `st.fault`: set by OutputExhausted, cleared by reset alone (R10, 60_exceptions.md R143). -/
  fault : Bool
deriving DecidableEq, Repr

/-- The input pins at one rising edge of `clk` (43_output_buffer.md R125), and the OPEN latency that applies from it. -/
structure Edge where
  /-- `rst`, synchronous reset, active high. -/
  rst : Bool
  /-- `in_valid`: the host presents a byte. -/
  inValid : Bool
  /-- `in_data`: the byte. -/
  inData : Byte
  /-- `out_ready`: the consumer can take a symbol. -/
  outReady : Bool
  /-- The value of `BURST_LATENCY` for the wait that begins at this edge, if one does: the cycles that pass before
  the block next drives `out_valid = 1` (43_output_buffer.md R127, decision D10). It is no pin. DESIGN CHOICE
  (notes/assumptions/2.md): the parameter is OPEN, so it is an argument of the edge, and a statement about every edge
  holds for every latency pattern. -/
  lag : Nat
deriving DecidableEq, Repr

/-- What the host does to the encoder (60_exceptions.md R152): a program in the form of 30_encoding.md R63 is a list
of `reset` and `call`, and the port-level form is driven by clock edges (43_output_buffer.md R125). -/
inductive HostAction where
  /-- Construction, or reset between invocations (70_reset_and_hazards.md R160). -/
  | reset
  /-- One invocation, ENCODE_CHUNK (43_output_buffer.md R119). -/
  | call (chunk : List Byte)
  /-- One rising edge of `clk` (43_output_buffer.md R125). -/
  | edge (e : Edge)
deriving DecidableEq, Repr

/-- The one exception of the block (60_exceptions.md R140). -/
inductive ExceptionName where
  | outputExhausted
deriving DecidableEq, Repr

/-- What a failed invocation reports beside the exception's name (60_exceptions.md R140 and R143). -/
inductive FaultInfo where
  /-- The byte `chunkIndex` could not be encoded: its burst of `needed` symbols did not fit on `used` in `capacity`. -/
  | exhausted (chunkIndex needed used capacity : Nat)
  /-- The encoder had faulted in an earlier invocation. -/
  | sticky
deriving DecidableEq, Repr

/-- What one invocation returns to the host (43_output_buffer.md R119). -/
inductive CallResult where
  /-- `Ok(OUTC)`: exactly the symbols of the chunk. -/
  | ok (outc : List Sym)
  /-- `Fault(name, info)`, with no symbols. -/
  | fault (name : ExceptionName) (info : FaultInfo)
deriving DecidableEq, Repr

/-- What the encoder is doing between two steps. DESIGN CHOICE (notes/assumptions/3.md): an invocation opens and returns in
a step each. -/
inductive Activity where
  /-- Waiting for the host. -/
  | waiting
  /-- Inside an invocation: the unread bytes of the chunk, the index of the next one in the chunk,
  and `OUTC`, the symbols appended so far (43_output_buffer.md R115 and R119). -/
  | invocation (rest : List Byte) (index : Nat) (outc : List Sym)
  /-- At a rising edge that transfers an input byte (43_output_buffer.md R126). A step leaves this activity
  in the same step that enters it; `lag` is that edge's latency. -/
  | transfer (data : Byte) (lag : Nat)
  /-- A selector word taken from outside that no state and byte can give (30_encoding.md R60): the next step refuses
  it (93_implementation_defined.md U2). Only `State.withFetchWord` makes this activity (DESIGN CHOICE,
  notes/assumptions/7.md). -/
  | placedWord (w : Nat)
deriving DecidableEq, Repr

/-- Why the machine stops with a fault. -/
inductive Fault where
  /-- Raised by an operation, or by the return of an invocation, that is asked for while `st.fault = 1`, against the
  precondition of Step (40_frame_state_machine.md R74) and 60_exceptions.md R143. No run from reset reaches it, since
  every invocation of a faulted encoder returns at once. DESIGN CHOICE (notes/assumptions/9.md). Safe: the machine stops
  where nothing may be claimed. -/
  | outputExhausted
deriving DecidableEq, Repr

/-- Why the machine refuses to give a state or an operation a meaning. -/
inductive Refusal where
  /-- Raised by an arm of `exec` that has no meaning yet, with the table's mnemonic. Safe. No arm is left. -/
  | notModelled (mnemonic : String)
  /-- Raised by `exec` on an ill-formed operation: its selector word cannot arise, and a model that takes one from
  outside must refuse it (30_encoding.md R60, 93_implementation_defined.md U1 and U2). Safe. -/
  | unreachableSelector
  /-- Raised by a step that decodes a word no row accepts (30_encoding.md R60). Safe. No state and byte give one, so
  it takes a word placed from outside. -/
  | noSuchOperation (e : DecodeError)
  /-- Raised by `exec` in a state that breaks 10_state.md R16 items 1 to 4 (93_implementation_defined.md U2). Safe. -/
  | illFormedState
  /-- Raised by `exec` and by an invocation on an encoder that was never constructed (70_reset_and_hazards.md R163,
  93_implementation_defined.md U5), and by a clock edge without `rst` on one, whether or not it offers a byte (DESIGN
  CHOICE, notes/assumptions/21.md). Safe. -/
  | notConstructed
  /-- Raised by `exec` where no input byte is offered: an operation is caused by an input byte
  (40_frame_state_machine.md R75). Safe. A step never asks for one there. -/
  | noInputByte
  /-- Raised by `exec` on an operation other than the one that the state and the input byte select
  (30_encoding.md R57 and R58). Safe. A step never asks for one. -/
  | notSelected
deriving DecidableEq, Repr

/-- The encoder, what it has told the outside world, and what the host will do next. -/
structure State where
  /-- Whether the encoder has been constructed or reset (70_reset_and_hazards.md R163). -/
  constructed : Bool
  /-- `st` (10_state.md R10). -/
  st : EncoderState
  /-- `OUT_CAPACITY`, fixed before construction; `none` is unbounded (00_scope.md R8, decision D5). DESIGN CHOICE
  (notes/assumptions/1.md): a field that no step writes, so that a statement about every state holds for every value. -/
  outCapacity : Option Nat
  /-- The index of the next unread byte in the whole input stream (20_memory.md R31). -/
  position : Nat
  /-- What is going on between two steps, with the open invocation's chunk and `OUTC`. -/
  activity : Activity
  /-- `pb.syms`, the pending burst of the port-level form (10_state.md R18). -/
  pb : List Sym
  /-- Cycles left before the block drives `out_valid` for the pending burst (43_output_buffer.md R127). -/
  wait : Nat
  /-- The symbols transferred on the output port so far, first to last (43_output_buffer.md R127). -/
  wire : List Sym
  /-- What the invocations so far have returned, first to last (43_output_buffer.md R119). -/
  results : List CallResult
  /-- What the host does next, first to last (60_exceptions.md R152). DESIGN CHOICE (notes/assumptions/3.md and 4.md). -/
  host : List HostAction
deriving DecidableEq, Repr

/-- `st` after construction or reset (10_state.md R19). -/
def EncoderState.reset : EncoderState :=
  { idle := true, remaining := 0#8, sum1 := 0#8, sum2 := 0#8, fault := false }

/-- A newly constructed encoder: the values of 10_state.md R19, nothing read, nothing sent, and no host action queued.
DESIGN CHOICE (notes/assumptions/1.md and 16.md): `outCapacity`, and the fields that are the model's own. -/
def State.reset : State :=
  { constructed := true
    st := EncoderState.reset
    outCapacity := none
    position := 0
    activity := .waiting
    pb := []
    wait := 0
    wire := []
    results := []
    host := [] }

end Sys2Proof.Machine
end

