-- ==== Sys2Proof/Machine/Flags.lean ====
section
/-! DEFINITION. The three flags that the selector is built from (30_encoding.md R57). -/

namespace Sys2Proof.Machine

/-- `S = st.idle` (30_encoding.md R57). -/
def flagS (st : EncoderState) : Bool := st.idle

/-- `L = (st.idle = 0) and (st.remaining = 1)`: this payload byte closes the frame (30_encoding.md R57). -/
def flagL (st : EncoderState) : Bool := !st.idle && st.remaining == 1#8

/-- `Z = (b = 0x00)` (30_encoding.md R57). -/
def flagZ (b : Byte) : Bool := b == 0#8

end Sys2Proof.Machine
end

