-- ==== Sys2Proof/Machine/Operands.lean ====
section
/-! DEFINITION. What a step reads: the input byte, the selector word built from it, and the check that the state is one
the spec gives a meaning. -/

namespace Sys2Proof.Machine

/-- 10_state.md R16 item 4, for a state whose past is not known: inside a frame the sums are those of some length byte and
payload so far that leave `remaining` owed. With 255 owed, the length byte 255 alone has been folded; with 254 owed, 254
alone, or 255 and one payload byte; with fewer owed, two payload bytes can give any sums (DEDUCED,
notes/assumptions/22.md). -/
def EncoderState.sumsPossible (st : EncoderState) : Bool :=
  st.idle
    || (if st.remaining = 255#8 then st.sum1 == 0#8 && st.sum2 == 0#8
        else if st.remaining = 254#8 then st.sum1 == st.sum2
        else true)

/-- 10_state.md R16, items 1 to 4: the states that the spec gives a meaning. (`remaining ≤ 255` holds by width.) -/
def EncoderState.wf (st : EncoderState) : Bool :=
  (!st.idle || st.remaining == 0#8) && (st.idle || 1 ≤ st.remaining.toNat)
    && decide (st.sum1.toNat ≤ 254) && decide (st.sum2.toNat ≤ 254) && st.sumsPossible

/-- `Selector(st, b)` (30_encoding.md R57). -/
def selector (st : EncoderState) (b : Byte) : Selector :=
  packSelector (flagS st) (flagL st) (flagZ b) b

/-- The byte that `InNext()` is about to return: the next unread byte of the open invocation's chunk
(20_memory.md R31), or the byte on `in_data` at an input transfer, which needs `busy = 0`
(43_output_buffer.md R126). -/
def State.nextByte (s : State) : Option Byte :=
  match s.activity with
  | .waiting => none
  | .invocation rest _ _ => rest.head?
  | .transfer data _ => if s.pb.isEmpty then some data else none
  | .placedWord _ => none

end Sys2Proof.Machine
end

