-- ==== Sys2Proof/Machine/Serializer.lean ====
section
/-! DEFINITION. The bit serializer (41_bit_serializer.md). -/

namespace Sys2Proof.Machine

/-- A logical item: a byte to send as bits, or one idle byte-time (30_encoding.md R52). -/
inductive Item where
  | data (b : Byte)
  | idle
deriving DecidableEq, Repr

/-- `sym(0) = BIT_ZERO`, `sym(1) = BIT_ONE` (41_bit_serializer.md R90). -/
def bitSym (v : Bool) : Sym := if v then Config.bitOne else Config.bitZero

/-- SER_DATA: the eight bits of a byte, least significant first (41_bit_serializer.md R90). -/
def serData (b : Byte) : List Sym :=
  [bitSym (b.getLsbD 0), bitSym (b.getLsbD 1), bitSym (b.getLsbD 2), bitSym (b.getLsbD 3),
   bitSym (b.getLsbD 4), bitSym (b.getLsbD 5), bitSym (b.getLsbD 6), bitSym (b.getLsbD 7)]

/-- SER_IDLE: eight IDLE symbols (41_bit_serializer.md R91). -/
def serIdle : List Sym := List.replicate 8 Config.idleSym

/-- The eight symbols of one item. -/
def serItem : Item → List Sym
  | .data b => serData b
  | .idle => serIdle

/-- SERIALIZE: the symbols of each item in list order (41_bit_serializer.md R92). -/
def serialize : List Item → List Sym
  | [] => []
  | item :: items => serItem item ++ serialize items

end Sys2Proof.Machine
end

