-- ==== Sys2Proof/Machine/Ops.lean ====
section
/-! DEFINITION. The named operations over the state: appending and loading a burst, taking the exception, resetting,
opening and closing an invocation, and `perform`, the step's body that every operation shares. -/

namespace Sys2Proof.Machine

/-- The number the spec gives an exception (60_exceptions.md R140). -/
def ExceptionName.code : ExceptionName → Nat
  | .outputExhausted => Config.outputExhaustedCode

/-- The accumulator `(st.sum1, st.sum2)` (10_state.md R13). -/
def EncoderState.sums (st : EncoderState) : Byte × Byte := (st.sum1, st.sum2)

/-- Writes the accumulator (10_state.md R13). -/
def EncoderState.setSums (st : EncoderState) (acc : Byte × Byte) : EncoderState :=
  { st with sum1 := acc.1, sum2 := acc.2 }

/-- The capacity check: `used` symbols and `needed` more do not exceed `OUT_CAPACITY` (43_output_buffer.md R123). -/
def fits (cap : Option Nat) (used needed : Nat) : Bool :=
  match cap with
  | none => true
  | some c => decide (used + needed ≤ c)

/-- What a fault of this invocation reports (60_exceptions.md R140). It is raised only under a finite capacity, so
the capacity read from `none` is never reported. -/
def exhaustedInfo (cap : Option Nat) (index needed used : Nat) : FaultInfo :=
  .exhausted index needed used (cap.getD 0)

/-- Appends a result to what the invocations have returned. -/
def State.giveResult (r : CallResult) (s : State) : State :=
  { s with results := s.results ++ [r] }

/-- TAKING THE EXCEPTION OutputExhausted (60_exceptions.md R143): nothing of the step is committed, the invocation ends
and returns the fault and no symbols, and `st.fault` becomes 1. DEDUCED (notes/assumptions/6.md): the faulting byte was
read (`InNext` stands before `Step` in 43_output_buffer.md R119), and the rest of the chunk is not. There is no return from
it: only reset leads back (60_exceptions.md R146). -/
def State.raiseOutputExhausted (info : FaultInfo) (s : State) : State :=
  { s with
    st := { s.st with fault := true }
    position := s.position + 1
    activity := .waiting
    results := s.results ++ [.fault .outputExhausted info] }

/-- OutAppend and the commit of `st'` in an invocation (43_output_buffer.md R116, 40_frame_state_machine.md R74):
the burst goes to the end of `OUTC` and the byte is consumed. -/
def State.appendBurst (st' : EncoderState) (syms : List Sym)
    (rest : List Byte) (index : Nat) (outc : List Sym) (s : State) : State :=
  { s with
    st := st'
    position := s.position + 1
    activity := .invocation rest (index + 1) (outc ++ syms) }

/-- The commit of `st'` at an input transfer: the burst becomes the pending burst (43_output_buffer.md R126). -/
def State.loadBurst (st' : EncoderState) (syms : List Sym) (lag : Nat) (s : State) : State :=
  { s with
    st := st'
    position := s.position + 1
    activity := .waiting
    pb := syms
    wait := lag }

/-- The end of Step: the capacity check, then the burst and the new state together, or the exception
(40_frame_state_machine.md R74). At an input transfer the capacity is `none` (43_output_buffer.md R126). -/
def State.commit (st' : EncoderState) (syms : List Sym) (s : State) : State :=
  match s.activity with
  | .waiting => s
  | .invocation rest index outc =>
    if fits s.outCapacity outc.length syms.length then
      s.appendBurst st' syms rest.tail index outc
    else
      s.raiseOutputExhausted (exhaustedInfo s.outCapacity index syms.length outc.length)
  | .transfer _ lag => s.loadBurst st' syms lag
  | .placedWord _ => s

/-- `Step(st, b)` for the operation `i` whose new state and items are `op st` (40_frame_state_machine.md R74).
The machine refuses a word that cannot arise, an encoder that was never constructed, a state outside
10_state.md R16 and an operation that the state and the byte do not select, and stops where the precondition
`st.fault = 0` is broken (DEDUCED, notes/assumptions/8.md and 9.md). -/
def perform (i : Instr) (op : EncoderState → EncoderState × List Item) (s : State) :
    Host.Outcome State Fault Refusal :=
  if !i.wf then .refused .unreachableSelector
  else if !s.constructed then .refused .notConstructed
  else if !s.st.wf then .refused .illFormedState
  else if s.st.fault then .fault .outputExhausted
  else match s.nextByte with
    | none => .refused .noInputByte
    | some b =>
      if selector s.st b = encode i then
        .next (s.commit (op s.st).1 (serialize (op s.st).2))
      else .refused .notSelected

/-- Construction and reset: the values of 10_state.md R19, `st` and `pb.syms` (70_reset_and_hazards.md R160, R161). DESIGN
CHOICE (notes/assumptions/5.md): what has left the encoder stays with the host, and the bytes consumed stay consumed. -/
def State.resetEncoder (s : State) : State :=
  { s with constructed := true, st := EncoderState.reset, pb := [], wait := 0 }

/-- The start of ENCODE_CHUNK: a faulted encoder answers at once and consumes nothing; otherwise `OUTC` starts empty
(43_output_buffer.md R119, 60_exceptions.md R143). -/
def State.beginCall (chunk : List Byte) (s : State) : State :=
  if s.st.fault then s.giveResult (.fault .outputExhausted .sticky)
  else { s with activity := .invocation chunk 0 [] }

/-- The return of ENCODE_CHUNK: `Ok(OUTC)` (43_output_buffer.md R119). -/
def State.returnOk (outc : List Sym) (s : State) : State :=
  { s with activity := .waiting, results := s.results ++ [.ok outc] }

/-- Takes the host's first action off the queue. -/
def State.dropAction (s : State) : State := { s with host := s.host.tail }

end Sys2Proof.Machine
end

