-- ==== Sys2Proof/Machine/Control.lean ====
section
/-! DEFINITION. What a step does before an operation runs: the host's actions, the port-level form, and the fetch of the
operation that the state and the input byte select. -/

namespace Sys2Proof.Machine

/-- What the next step is. -/
inductive Plan where
  /-- A step that runs no operation. -/
  | move (s : State)
  /-- A step that runs the operation `i` on `s`. -/
  | operate (i : Instr) (s : State)
  | stop (f : Fault)
  | refuse (r : Refusal)
deriving DecidableEq, Repr

/-- `busy`: a burst is pending (10_state.md R18); 0 while `rst = 1` (70_reset_and_hazards.md R161; DEDUCED,
notes/assumptions/11.md). -/
def State.busy (s : State) (e : Edge) : Bool := !e.rst && !s.pb.isEmpty

/-- `in_ready = 1` exactly when `rst = 0`, `busy = 0` and `st.fault = 0` (43_output_buffer.md R126). -/
def State.inReady (s : State) (e : Edge) : Bool := !e.rst && !s.busy e && !s.st.fault

/-- `out_valid`: a burst is pending and the latency has passed (43_output_buffer.md R127); 0 while `rst = 1`
(70_reset_and_hazards.md R161). -/
def State.outValid (s : State) (e : Edge) : Bool := !e.rst && !s.pb.isEmpty && s.wait == 0

/-- `out_sym`: the first pending symbol while `out_valid = 1` (43_output_buffer.md R127). The spec gives the pin no value
while `out_valid = 0`, and neither does this (DESIGN CHOICE, notes/assumptions/12.md). -/
def State.outSym (s : State) (e : Edge) : Option Sym := if s.outValid e then s.pb.head? else none

/-- The `fault` output is `st.fault` (43_output_buffer.md R125). -/
def State.faultOut (s : State) : Bool := s.st.fault

/-- An input byte is transferred at this edge: `in_valid = 1`, `in_ready = 1` and `rst = 0` (43_output_buffer.md R126). PRESUMED
(notes/assumptions/15.md): the spec takes this convention from general knowledge. -/
def State.inTransfer (s : State) (e : Edge) : Bool := e.inValid && s.inReady e && !e.rst

/-- A symbol is transferred at this edge: `out_valid = 1`, `out_ready = 1` and `rst = 0` (43_output_buffer.md R127). -/
def State.outTransfer (s : State) (e : Edge) : Bool := s.outValid e && e.outReady && !e.rst

/-- The transfer of one symbol: it leaves the pending burst, and the latency of this edge applies to the next one
(43_output_buffer.md R127). -/
def State.sendSym (lag : Nat) (s : State) : State :=
  { s with pb := s.pb.tail, wait := lag, wire := s.wire ++ s.pb.head?.toList }

/-- One cycle of latency passes while a burst is pending (43_output_buffer.md R127). -/
def State.passCycle (s : State) : State := { s with wait := s.wait - 1 }

/-- The operation that the state and the next input byte select (40_frame_state_machine.md R74: selector, then decode). -/
def fetch (s : State) : Plan :=
  match s.nextByte with
  | none => .refuse .noInputByte
  | some b =>
    match decode (selector s.st b) with
    | .op i => .operate i s
    | .rejected e => .refuse (.noSuchOperation e)

/-- One rising edge of `clk` (43_output_buffer.md R125 to R129, 70_reset_and_hazards.md R161): reset first; then an input
transfer, which runs Step on `in_data`; else the transfer of one symbol; else a cycle of latency (DEDUCED,
notes/assumptions/13.md). On an encoder that was never constructed an edge without `rst` is refused, also one that offers
no byte: 70_reset_and_hazards.md R163 asks this for an invocation, and the spec does not say what an edge does before
the first `rst` (DESIGN CHOICE, notes/assumptions/21.md). -/
def clockEdge (e : Edge) (s : State) : Plan :=
  if e.rst then .move s.resetEncoder
  else if !s.constructed then .refuse .notConstructed
  else if s.inTransfer e then fetch { s with activity := .transfer e.inData e.lag }
  else if s.outTransfer e then .move (s.sendSym e.lag)
  else .move s.passCycle

/-- The operation of a word taken from outside: a rejection by name, or an operation for `exec`, which refuses an ill-formed
one (30_encoding.md R60). -/
def planWord (w : Nat) (s : State) : Plan :=
  match decodeNat w with
  | .op i => .operate i s
  | .rejected e => .refuse (.noSuchOperation e)

/-- The next step. An open invocation goes on, and returns when its chunk is used up (43_output_buffer.md R119);
otherwise the host's next action is taken; with none queued the encoder waits and keeps its state
(60_exceptions.md R149). -/
def plan (s : State) : Plan :=
  match s.activity with
  | .invocation [] _ outc => if s.st.fault then .stop .outputExhausted else .move (s.returnOk outc)
  | .invocation (_ :: _) _ _ => fetch s
  | .transfer _ _ => fetch s
  | .placedWord w => planWord w s
  | .waiting =>
    match s.host with
    | [] => .move s
    | .reset :: _ => .move s.dropAction.resetEncoder
    | .call chunk :: _ =>
      if s.constructed then .move (s.dropAction.beginCall chunk) else .refuse .notConstructed
    | .edge e :: _ => clockEdge e s.dropAction

/-- The encoder in a state, and with one byte of an open invocation left, from which R57 builds the word `sel`: `idle` and
`remaining` from `sel[10]` and `sel[9]`, the byte from `sel[7:0]`. What the word leaves free is kept where it is legal
(DESIGN CHOICE, notes/assumptions/4.md). -/
def State.selecting (sel : Selector) (s : State) : State :=
  { s with
    constructed := true
    st :=
      { idle := selS sel
        remaining :=
          if selL sel then 1#8
          else if selS sel then 0#8
          else if 2 ≤ s.st.remaining.toNat && s.st.remaining.toNat ≤ 253 then s.st.remaining
          else 2#8
        sum1 := s.st.sum1 % 255#8
        sum2 := s.st.sum2 % 255#8
        fault := false }
    activity := .invocation [selByte sel] 0 [] }

/-- The word `w` put where the next step reads it. A word that R57 cannot build (30_encoding.md R60) is kept as a word
from outside, which the next step refuses (93_implementation_defined.md U2; DESIGN CHOICE, notes/assumptions/7.md). -/
def State.placeSelector (w : Nat) (s : State) : State :=
  match decodeNat w with
  | .op i => if i.wf then s.selecting (BitVec.ofNat 11 w) else { s with activity := .placedWord w }
  | .rejected _ => { s with activity := .placedWord w }

end Sys2Proof.Machine
end

