-- ==== Sys2Proof/Machine/FrameMachine.lean ====
section
/-! DEFINITION. The frame state machine: the four operations and their meanings (40_frame_state_machine.md). -/

namespace Sys2Proof.Machine

/-- The header as ten data items (30_encoding.md R53). -/
def headerItems : List Item := Config.hdr.map Item.data

/-- The gap after a frame's checksum (30_encoding.md R55). -/
def gapItems : List Item := List.replicate Config.gapLen Item.idle

/-- IDLE_FILL: one idle byte-time, nothing written (40_frame_state_machine.md R70). -/
def opIdleFill (st : EncoderState) : EncoderState × List Item := (st, [.idle])

/-- FRAME_START: the sums are reset and take the length byte, `remaining` is the length byte, the frame opens, and
the header and the length byte are sent (40_frame_state_machine.md R71). -/
def opFrameStart (v : Byte) (st : EncoderState) : EncoderState × List Item :=
  ({ st.setSums (ckFold ckReset v) with remaining := v, idle := false },
   headerItems ++ [.data v])

/-- PAYLOAD: the sums take the byte, one byte fewer is owed, and the byte is sent (40_frame_state_machine.md R72). -/
def opPayload (v : Byte) (st : EncoderState) : EncoderState × List Item :=
  ({ st.setSums (ckFold st.sums v) with remaining := st.remaining - 1#8 }, [.data v])

/-- PAYLOAD_LAST: as PAYLOAD, then the two checksum bytes and the gap are sent and the frame closes; the sums keep their
values (40_frame_state_machine.md R73, 10_state.md R14). -/
def opPayloadLast (v : Byte) (st : EncoderState) : EncoderState × List Item :=
  let acc := ckFold st.sums v
  ({ st.setSums acc with remaining := st.remaining - 1#8, idle := true },
   [.data v, .data (ckFinal acc).1, .data (ckFinal acc).2] ++ gapItems)

/-- The new state and the items of an operation (40_frame_state_machine.md R74). -/
def operation : Instr → EncoderState → EncoderState × List Item
  | .idleFill => opIdleFill
  | .frameStart b => opFrameStart b
  | .payload _ b => opPayload b
  | .payloadLast _ b => opPayloadLast b

/-- The meaning of IDLE_FILL (40_frame_state_machine.md R70 and R74). -/
def execIdleFill (s : State) : Host.Outcome State Fault Refusal :=
  perform .idleFill opIdleFill s

/-- The meaning of FRAME_START (40_frame_state_machine.md R71 and R74). -/
def execFrameStart (b : Byte) (s : State) : Host.Outcome State Fault Refusal :=
  perform (.frameStart b) (opFrameStart b) s

/-- The meaning of PAYLOAD (40_frame_state_machine.md R72 and R74). -/
def execPayload (z : Bool) (b : Byte) (s : State) : Host.Outcome State Fault Refusal :=
  perform (.payload z b) (opPayload b) s

/-- The meaning of PAYLOAD_LAST (40_frame_state_machine.md R73 and R74). -/
def execPayloadLast (z : Bool) (b : Byte) (s : State) : Host.Outcome State Fault Refusal :=
  perform (.payloadLast z b) (opPayloadLast b) s

end Sys2Proof.Machine
end

