-- ==== Sys2Proof/Machine/Dispatch.lean ====
section
/-! DEFINITION. Which meaning each operation has. -/

namespace Sys2Proof.Machine

def exec (i : Instr) (s : State) : Host.Outcome State Fault Refusal :=
  match i with
  | .idleFill => Sys2Proof.Machine.execIdleFill s
  | .frameStart b => Sys2Proof.Machine.execFrameStart b s
  | .payload z b => Sys2Proof.Machine.execPayload z b s
  | .payloadLast z b => Sys2Proof.Machine.execPayloadLast z b s

end Sys2Proof.Machine
end

