-- ==== Sys2Proof/Machine/Step.lean ====
section
/-! DEFINITION. One step of the machine, and the placing of an operation where the next step fetches it. -/

namespace Sys2Proof.Machine

/-- Carries out a plan: an operation is run by `exec`. -/
def Plan.run : Plan → Host.Outcome State Fault Refusal
  | .move t => .next t
  | .operate i t => exec i t
  | .stop f => .fault f
  | .refuse r => .refused r

/-- One step: the plan of the state, carried out. -/
def step (s : State) : Host.Outcome State Fault Refusal := (plan s).run

/-- The state in which the next step selects the operation of the word `w`. The encoder fetches no instructions
(10_state.md R17): an operation is selected by the state and the input byte (30_encoding.md R57), so these are what
is set. A word that R57 cannot build is refused by the next step (30_encoding.md R60). -/
def State.withFetchWord (s : State) (nbits w : Nat) : State :=
  s.placeSelector (w % 2 ^ nbits)

end Sys2Proof.Machine
end

