-- ==== Sys2Proof/Machine/Instances.lean ====
section
/-! DEFINITION. Several encoders side by side: each has its own state and none can reach another's
(20_memory.md R44, 60_exceptions.md R151). -/

namespace Sys2Proof.Machine

/-- Encoder `k` takes a step, and the others keep their states. An encoder whose step is a fault or a refusal stays
(DESIGN CHOICE, notes/assumptions/18.md). -/
def stepEncoder (k : Nat) (encoders : List State) : List State :=
  encoders.modify k (fun s => match step s with
    | .next t => t
    | .fault _ => s
    | .refused _ => s)

/-- Steps of several encoders, in the order of a list of indices. 20_memory.md R44 leaves that order open, so a claim about
every list is a claim about every order. -/
def stepEncoders (schedule : List Nat) (encoders : List State) : List State :=
  schedule.foldl (fun es k => stepEncoder k es) encoders

end Sys2Proof.Machine
end

