-- ==== Sys2Proof/Machine/Invocation.lean ====
section
/-! DEFINITION. ENCODE_CHUNK as the spec writes it: a function of the state and the chunk (43_output_buffer.md R119). The machine
of Step.lean takes one step a byte instead; that the two agree is a statement of its own. -/

namespace Sys2Proof.Machine

/-- The operation that a state and a byte select (30_encoding.md R58, in words). -/
def selected (st : EncoderState) (b : Byte) : Instr :=
  if st.idle then (if b = 0#8 then .idleFill else .frameStart b)
  else if st.remaining = 1#8 then .payloadLast (b == 0#8) b
  else .payload (b == 0#8) b

/-- The new state and the burst of one byte, before the capacity check (40_frame_state_machine.md R74). -/
def encodeByte (st : EncoderState) (b : Byte) : EncoderState × List Sym :=
  ((operation (selected st b) st).1, serialize (operation (selected st b) st).2)

/-- The state and the symbols of a byte sequence with `OUT_CAPACITY = none` (43_output_buffer.md R120). -/
def encodeBytes (st : EncoderState) : List Byte → EncoderState × List Sym
  | [] => (st, [])
  | b :: bs =>
    ((encodeBytes (encodeByte st b).1 bs).1,
     (encodeByte st b).2 ++ (encodeBytes (encodeByte st b).1 bs).2)

/-- The loop of ENCODE_CHUNK over the bytes from index `k` on, with `outc` appended so far (43_output_buffer.md R119). -/
def chunkLoop (cap : Option Nat) (k : Nat) (outc : List Sym) (st : EncoderState) :
    List Byte → EncoderState × CallResult
  | [] => (st, .ok outc)
  | b :: bs =>
    if fits cap outc.length (encodeByte st b).2.length then
      chunkLoop cap (k + 1) (outc ++ (encodeByte st b).2) (encodeByte st b).1 bs
    else
      ({ st with fault := true },
       .fault .outputExhausted (exhaustedInfo cap k (encodeByte st b).2.length outc.length))

/-- `ENCODE_CHUNK(st, c)` (43_output_buffer.md R119). -/
def encodeChunk (cap : Option Nat) (st : EncoderState) (chunk : List Byte) : EncoderState × CallResult :=
  if st.fault then (st, .fault .outputExhausted .sticky) else chunkLoop cap 0 [] st chunk

/-- ENCODE_CHUNK of each chunk in turn, with what each returned (43_output_buffer.md R121). -/
def encodeChunks (cap : Option Nat) (st : EncoderState) : List (List Byte) → EncoderState × List CallResult
  | [] => (st, [])
  | c :: cs =>
    ((encodeChunks cap (encodeChunk cap st c).1 cs).1,
     (encodeChunk cap st c).2 :: (encodeChunks cap (encodeChunk cap st c).1 cs).2)

/-- The symbols that a list of results returned, joined; a fault returns none (60_exceptions.md R143). -/
def returnedSyms : List CallResult → List Sym
  | [] => []
  | .ok outc :: rs => outc ++ returnedSyms rs
  | .fault _ _ :: rs => returnedSyms rs

/-- A result that is not a fault. -/
def CallResult.isOk : CallResult → Bool
  | .ok _ => true
  | .fault _ _ => false

/-- The end of a run: no invocation is open, the host asks for nothing more, and the encoder has not faulted. A faulted state
is never final (60_exceptions.md R143, 70_reset_and_hazards.md R168; DEDUCED, notes/assumptions/23.md). -/
def State.final (s : State) : Bool :=
  s.activity == .waiting && s.host.isEmpty && !s.st.fault

/-- What a run that has ended returned: the outputs of its invocations, joined (70_reset_and_hazards.md R168). A run in which
an invocation faulted has no output (60_exceptions.md R143; DEDUCED, notes/assumptions/23.md). -/
def State.runOutput (s : State) : Option (List Sym) :=
  if s.final && s.results.all CallResult.isOk then some (returnedSyms s.results) else none

end Sys2Proof.Machine
end

