-- ==== Sys2Proof/Safety.lean ====
section
/-! DEFINITION. The terms that claims are stated in: when an operation runs normally, the invariant of the machine, a reader of
the output, the sums of a frame, and the bytes that a list of clock edges transfers. -/

namespace Sys2Proof.Machine

/-- The encoder is constructed, in a state of 10_state.md R16 items 1 to 4, and has not faulted: the states in which
Step is defined (40_frame_state_machine.md R74 and R76). -/
def State.able (s : State) : Prop :=
  s.constructed = true ∧ s.st.wf = true ∧ s.st.fault = false

/-- `needed` more symbols do not exceed a finite capacity (43_output_buffer.md R123). -/
def room (cap : Option Nat) (used needed : Nat) : Prop :=
  ∀ c, cap = some c → used + needed ≤ c

/-- The burst of each operation in symbols (43_output_buffer.md R117). -/
def burstSize : Instr → Nat
  | .idleFill => 8
  | .frameStart _ => 88
  | .payload _ _ => 8
  | .payloadLast _ _ => 40

/-- The code is one of BIT_ZERO, BIT_ONE and IDLE (30_encoding.md R52). -/
def inAlphabet (x : Sym) : Bool := x == 0x00#8 || x == 0x01#8 || x == 0xFF#8

/-- A symbol sequence that the block may produce: whole groups of eight (20_memory.md R35) over the alphabet (30_encoding.md R52). -/
def goodOutput (syms : List Sym) : Prop :=
  syms.length % 8 = 0 ∧ ∀ x ∈ syms, inAlphabet x = true

/-- A returned output respects the alphabet, the groups and the capacity; a fault returns no symbols. -/
def CallResult.good (cap : Option Nat) : CallResult → Prop
  | .ok outc => goodOutput outc ∧ room cap outc.length 0
  | .fault _ _ => True

/-- An open invocation belongs to an encoder that has not faulted, and its `OUTC` respects the alphabet, the groups and
the capacity. An input transfer is never left open by a step, and no word from outside stands in for a byte. -/
def State.activityGood (s : State) : Prop :=
  match s.activity with
  | .waiting => True
  | .invocation _ _ outc => s.st.fault = false ∧ goodOutput outc ∧ room s.outCapacity outc.length 0
  | .transfer _ _ => False
  | .placedWord _ => False

/-- The invariant of a constructed encoder: 10_state.md R16 items 1 to 4, the width of the pending burst (R18), the alphabet on
every output (30_encoding.md R52), whole groups (20_memory.md R35), the capacity (43_output_buffer.md R123), and no open
invocation after a fault (60_exceptions.md R143). -/
def State.Inv (s : State) : Prop :=
  s.constructed = true ∧ s.st.wf = true
    ∧ s.pb.length ≤ 88 ∧ (∀ x ∈ s.pb, inAlphabet x = true)
    ∧ (∀ x ∈ s.wire, inAlphabet x = true)
    ∧ s.activityGood
    ∧ ∀ r ∈ s.results, r.good s.outCapacity

/-- The bit of a data symbol; no bit for IDLE, and none for a code outside the alphabet (30_encoding.md R61). -/
def readBit (x : Sym) : Option Bool :=
  if x = 0x01#8 then some true else if x = 0x00#8 then some false else none

/-- The byte of eight data symbols, least significant bit first. -/
def readByte (x0 x1 x2 x3 x4 x5 x6 x7 : Sym) : Option Byte := do
  let b0 ← readBit x0
  let b1 ← readBit x1
  let b2 ← readBit x2
  let b3 ← readBit x3
  let b4 ← readBit x4
  let b5 ← readBit x5
  let b6 ← readBit x6
  let b7 ← readBit x7
  return BitVec.ofBool b7 ++ BitVec.ofBool b6 ++ BitVec.ofBool b5 ++ BitVec.ofBool b4
    ++ BitVec.ofBool b3 ++ BitVec.ofBool b2 ++ BitVec.ofBool b1 ++ BitVec.ofBool b0

/-- A reader of the output: the items of a symbol sequence, or none where the sequence is no output of the block
(41_bit_serializer.md R94, 93_implementation_defined.md U11). -/
def readItems : List Sym → Option (List Item)
  | [] => some []
  | x0 :: x1 :: x2 :: x3 :: x4 :: x5 :: x6 :: x7 :: more =>
    if [x0, x1, x2, x3, x4, x5, x6, x7] = List.replicate 8 0xFF#8 then
      (readItems more).map (fun items => .idle :: items)
    else
      (readByte x0 x1 x2 x3 x4 x5 x6 x7).bind
        (fun b => (readItems more).map (fun items => .data b :: items))
  | _ => none

/-- The accumulator after folding bytes from `(0, 0)` (10_state.md R16 item 4). -/
def foldAll (xs : List Byte) : Byte × Byte := xs.foldl ckFold ckReset

/-- `sum1 = sum1 + byte; sum2 = sum2 + sum1` over the unbounded integers, with no reduction (42_checksum.md R104). -/
def deferredSums (xs : List Byte) : Nat × Nat :=
  xs.foldl (fun acc x => (acc.1 + x.toNat, acc.2 + (acc.1 + x.toNat))) (0, 0)

/-- `Σ x_i` (42_checksum.md R103). -/
def plainSum : List Byte → Nat
  | [] => 0
  | x :: xs => x.toNat + plainSum xs

/-- `Σ (n + 1 − i) · x_i` over `x_0 .. x_n`: the first byte counts once for itself and once for each byte
after it (42_checksum.md R103). -/
def weightedSum : List Byte → Nat
  | [] => 0
  | x :: xs => (xs.length + 1) * x.toNat + weightedSum xs

/-- CK1 of a frame by the closed form (42_checksum.md R103). -/
def closedCk1 (xs : List Byte) : Byte := BitVec.ofNat 8 (plainSum xs % 255)

/-- CK2 of a frame by the closed form (42_checksum.md R103). -/
def closedCk2 (xs : List Byte) : Byte := BitVec.ofNat 8 (weightedSum xs % 255)

/-- The items of one whole frame on the wire (30_encoding.md R55). -/
def frameItems (len : Byte) (body : List Byte) : List Item :=
  [.data 0xA5#8, .data 0xF0#8, .data 0xA5#8, .data 0xF0#8, .data 0xA5#8, .data 0xF0#8,
   .data 0x7E#8, .data 0x81#8, .data 0xC3#8, .data 0x3C#8, .data len]
  ++ body.map Item.data
  ++ [.data (closedCk1 (len :: body)), .data (closedCk2 (len :: body)), .idle, .idle]

/-- How many bytes of a sequence are FRAME_START steps, from state `st` (43_output_buffer.md R122). -/
def countStarts (st : EncoderState) : List Byte → Nat
  | [] => 0
  | b :: bs => (if st.idle && b != 0#8 then 1 else 0) + countStarts (encodeByte st b).1 bs

/-- How many bytes of a sequence are PAYLOAD_LAST steps, from state `st` (43_output_buffer.md R122). -/
def countLasts (st : EncoderState) : List Byte → Nat
  | [] => 0
  | b :: bs => (if !st.idle && st.remaining == 1#8 then 1 else 0) + countLasts (encodeByte st b).1 bs

/-- No result of the list is a fault. -/
def noFault (rs : List CallResult) : Prop := ∀ n i, CallResult.fault n i ∉ rs

/-- The host's next actions are these clock edges, and then `more`. -/
def State.edgesAhead (s : State) (es : List Edge) (more : List HostAction) : Prop :=
  s.activity = .waiting ∧ s.host = es.map HostAction.edge ++ more

/-- `n` steps, stopping at the first fault or refusal. -/
def runSteps : Nat → State → Host.Outcome State Fault Refusal
  | 0, s => .next s
  | n + 1, s =>
    match step s with
    | .next t => runSteps n t
    | .fault f => .fault f
    | .refused r => .refused r

/-- The bytes that a list of clock edges transfers on the input port, from `s` (43_output_buffer.md R126). -/
def acceptedBytes : List Edge → State → List Byte
  | [], _ => []
  | e :: es, s =>
    (if s.inTransfer e then [e.inData] else []) ++
      match step s with
      | .next t => acceptedBytes es t
      | .fault _ => []
      | .refused _ => []

end Sys2Proof.Machine
end

