-- ==== Sys2Proof/Certificates/Slice0/Obligations.lean ====
section
/-! DEFINITION. The statements about the machine. Each docstring names the rules of spec/ that its statement formalises. -/

open Sys2Proof Sys2Proof.Machine

/-! ### Reset -/

/-- R19: construction, the host's reset and an edge with `rst = 1` leave exactly these values. -/
def Obligations.ResetLeavesStatedValues : Prop :=
  (State.reset.st = { idle := true, remaining := 0#8, sum1 := 0#8, sum2 := 0#8, fault := false }
    ∧ State.reset.pb = [])
  ∧ ∀ (s : State) (more : List HostAction) (e : Edge), s.activity = .waiting →
      (s.host = .reset :: more ∨ (s.host = .edge e :: more ∧ e.rst = true)) →
      ∃ t, step s = .next t
        ∧ t.st = { idle := true, remaining := 0#8, sum1 := 0#8, sum2 := 0#8, fault := false }
        ∧ t.pb = []

/-- The frame of a reset, by the host (R160) or by an edge with `rst = 1` (R161). That `position`, `wire` and `results` keep
their values is the model's choice (notes/assumptions/5.md): the spec lists what a reset sets and says nothing
of what has already been read or delivered. -/
def Obligations.ResetWritesOnlyTheEncoder : Prop :=
  ∀ (s : State) (e : Edge) (more : List HostAction), s.activity = .waiting →
    (s.host = .reset :: more ∨ (s.host = .edge e :: more ∧ e.rst = true)) →
    step s = .next { s with
      constructed := true
      st := { idle := true, remaining := 0#8, sum1 := 0#8, sum2 := 0#8, fault := false }
      pb := []
      wait := 0
      host := more }

/-- R161: while `rst = 1` nothing is offered or accepted, and the edge sets `st`, empties the pending burst and transfers
nothing on either port; at the next edge with `rst = 0` a byte can be accepted.
That the outputs are 0 also in the first cycle of `rst = 1` is the model's reading (notes/assumptions/11.md). -/
def Obligations.PortResetDiscardsBurst : Prop :=
  ∀ (s : State) (e : Edge) (more : List HostAction), s.activity = .waiting → s.host = .edge e :: more →
    e.rst = true →
    (s.inReady e = false ∧ s.outValid e = false ∧ s.busy e = false
      ∧ s.inTransfer e = false ∧ s.outTransfer e = false)
    ∧ ∃ t, step s = .next t
      ∧ t.st = { idle := true, remaining := 0#8, sum1 := 0#8, sum2 := 0#8, fault := false }
      ∧ t.pb = [] ∧ t.wire = s.wire ∧ t.host = more
      ∧ ∀ e', e'.rst = false → t.inReady e' = true

/-- R162: after a reset, wherever a frame stood, nothing of that frame is emitted, and the next nonzero byte opens a new
frame with a fresh header; at the transaction level, and at port level.
The header, the length byte and `remaining = v` are R71's. The step that opens an invocation is the model's choice
(notes/assumptions/3.md), and so is what a reset keeps, `wire` and `results` (5.md); that the byte is taken at the first edge
with `in_valid = 1` is R126 with the transfer convention K1 (15.md). -/
def Obligations.ResetAbandonsOpenFrame : Prop :=
  ∀ (s : State) (v : Byte) (more : List HostAction), s.activity = .waiting → v ≠ 0#8 →
    (∀ bs, s.host = .reset :: .call (v :: bs) :: more → room s.outCapacity 0 88 →
      ∃ t, runSteps 3 s = .next t
        ∧ t.activity = .invocation bs 1 (serialize
            [.data 0xA5#8, .data 0xF0#8, .data 0xA5#8, .data 0xF0#8, .data 0xA5#8, .data 0xF0#8,
             .data 0x7E#8, .data 0x81#8, .data 0xC3#8, .data 0x3C#8, .data v])
        ∧ t.st.idle = false ∧ t.st.remaining = v
        ∧ t.pb = [] ∧ t.wire = s.wire ∧ t.results = s.results)
    ∧ ∀ e e', s.host = .edge e :: .edge e' :: more → e.rst = true → e'.rst = false → e'.inValid = true →
      e'.inData = v →
      ∃ t, runSteps 2 s = .next t
        ∧ t.pb = serialize
            [.data 0xA5#8, .data 0xF0#8, .data 0xA5#8, .data 0xF0#8, .data 0xA5#8, .data 0xF0#8,
             .data 0x7E#8, .data 0x81#8, .data 0xC3#8, .data 0x3C#8, .data v]
        ∧ t.st.idle = false ∧ t.st.remaining = v ∧ t.wire = s.wire ∧ t.results = s.results

/-- R163: an encoder that was never constructed is refused, for an invocation and every well-formed operation. That a clock
edge without `rst` is refused too, also one that offers no byte, is the model's choice (notes/assumptions/21.md).
The name of the refusal is the model's (8.md). -/
def Obligations.UnconstructedIsRefused : Prop :=
  ∀ (s : State), s.constructed = false →
    (∀ c more, s.activity = .waiting → s.host = .call c :: more → step s = .refused .notConstructed)
    ∧ (∀ e more, s.activity = .waiting → s.host = .edge e :: more → e.rst = false →
        step s = .refused .notConstructed)
    ∧ ∀ i : Instr, i.wf = true → exec i s = .refused .notConstructed

/-! ### The selector and the operation map -/

/-- R57: the four fields of the selector word, bit by bit. -/
def Obligations.SelectorFieldsFollowState : Prop :=
  ∀ (st : EncoderState) (b : Byte),
    (selector st b).getLsbD 10 = st.idle
    ∧ ((selector st b).getLsbD 9 = true ↔ st.idle = false ∧ st.remaining = 1#8)
    ∧ ((selector st b).getLsbD 8 = true ↔ b = 0x00#8)
    ∧ ∀ k, k < 8 → (selector st b).getLsbD k = b.getLsbD k

/-- R58 and R59: each selector that R57 builds is accepted by exactly one row of the map, and decodes to the operation of the
rule's words. -/
def Obligations.SelectorSelectsOneOperation : Prop :=
  ∀ (st : EncoderState) (b : Byte), st.wf = true →
    opRows.map (fun r => (r.pattern, r.mask))
      = [(0x500#11, 0x7FF#11), (0x400#11, 0x700#11), (0x000#11, 0x600#11), (0x200#11, 0x600#11)]
    ∧ (∃ r ∈ opRows, ∀ r' ∈ opRows, selector st b &&& r'.mask = r'.pattern ↔ r' = r)
    ∧ (st.idle = true → b = 0x00#8 → decode (selector st b) = .op .idleFill)
    ∧ (st.idle = true → b ≠ 0x00#8 → decode (selector st b) = .op (.frameStart b))
    ∧ (st.idle = false → 2 ≤ st.remaining.toNat → decode (selector st b) = .op (.payload (b == 0x00#8) b))
    ∧ (st.idle = false → st.remaining = 1#8 → decode (selector st b) = .op (.payloadLast (b == 0x00#8) b))

/-- R60: the words that cannot arise are never built from a state and a byte, and are refused when they come from outside:
`S = 1, L = 1` by the decoder, a `Z` that does not repeat `b = 0x00` by the decoder or by the operation,
a length byte of 0x00 by the operation. A word of that kind, or one with a bit above bit 10, that is placed for the next
step makes that step refuse.
Which of the two refuses is the model's choice (notes/assumptions/7.md). -/
def Obligations.UnreachableSelectorsAreRefused : Prop :=
  (∀ st b, ¬((selector st b).getLsbD 10 = true ∧ (selector st b).getLsbD 9 = true)
      ∧ ((selector st b).getLsbD 8 = true ↔ selByte (selector st b) = 0x00#8))
  ∧ (∀ sel : Selector, sel.getLsbD 10 = true → sel.getLsbD 9 = true → decode sel = .rejected .lastWhileIdle)
  ∧ (∀ sel : Selector, ¬(sel.getLsbD 8 = true ↔ selByte sel = 0x00#8) →
      (∃ e, decode sel = .rejected e)
      ∨ ∃ i, decode sel = .op i ∧ ∀ s, exec i s = .refused .unreachableSelector)
  ∧ (∀ s, exec (.frameStart 0x00#8) s = .refused .unreachableSelector)
  ∧ ∀ (s : State) (nbits w : Nat), (∀ st b, (selector st b).toNat ≠ w % 2 ^ nbits) →
      ∃ r, step (s.withFetchWord nbits w) = .refused r

/-- No bit of an operation is lost: decoding the word of any operation gives that operation (R57, R58).
That ill-formed operations have words too is the model's choice (notes/assumptions/7.md). -/
def Obligations.DecodeInvertsEncode : Prop :=
  ∀ i : Instr, decode (encode i) = .op i

/-- No word has two readings: a word that decodes is the word of what it decodes to (R58, R59). -/
def Obligations.EncodeInvertsDecode : Prop :=
  ∀ (sel : Selector) (i : Instr), decode sel = .op i → encode i = sel

/-- Words written out from the rows of R58: 0x500; 0x400 with byte 0x03; 0x000 with bytes 0x41 and 0x00 (`Z = 1`);
0x200 with bytes 0x43 and 0x00 (`Z = 1`). -/
def Obligations.SampleWordsDecodeAsTheTableSays : Prop :=
  decode 0b10100000000#11 = .op .idleFill
  ∧ decode 0b10000000011#11 = .op (.frameStart 0x03#8)
  ∧ decode 0b00001000001#11 = .op (.payload false 0x41#8)
  ∧ decode 0b00100000000#11 = .op (.payload true 0x00#8)
  ∧ decode 0b01001000011#11 = .op (.payloadLast false 0x43#8)
  ∧ decode 0b01100000000#11 = .op (.payloadLast true 0x00#8)

/-! ### The step -/

/-- The step of an open invocation with a byte left runs the decoded operation; `exec` itself consumes the byte. -/
def Obligations.StepRunsDecodedOperation : Prop :=
  ∀ (s : State) (b : Byte) (rest : List Byte) (k : Nat) (outc : List Sym) (i : Instr),
    s.activity = .invocation (b :: rest) k outc → decode (selector s.st b) = .op i → step s = exec i s

/-- The step of a clock edge that transfers a byte runs the decoded operation, on the state from which the edge has been
taken and in which the byte stands at the port.
The transfer convention is K1 (notes/assumptions/15.md). -/
def Obligations.PortStepRunsDecodedOperation : Prop :=
  ∀ (s : State) (e : Edge) (more : List HostAction) (i : Instr),
    s.constructed = true → s.st.fault = false → s.pb = [] →
    s.activity = .waiting → s.host = .edge e :: more → e.rst = false → e.inValid = true →
    decode (selector s.st e.inData) = .op i →
    step s = exec i { s with host := more, activity := .transfer e.inData e.lag }

/-- R70: IDLE_FILL completes in an invocation: eight IDLE symbols are appended, `st` is unchanged, and nothing but the
consumed byte and `OUTC` changes. -/
def Obligations.IdleFillCompletes : Prop :=
  ∀ (s : State) (rest : List Byte) (k : Nat) (outc : List Sym), s.able →
    s.activity = .invocation (0x00#8 :: rest) k outc → s.st.idle = true → room s.outCapacity outc.length 8 →
    exec .idleFill s = .next { s with
      position := s.position + 1
      activity := .invocation rest (k + 1) (outc ++ List.replicate 8 0xFF#8) }

/-- R71 with R53 and R101: FRAME_START completes in an invocation for every length byte 1 to 255: the header and the length
byte are appended, both sums become `v mod 255`, `remaining` becomes `v`, the frame opens, and nothing else changes. -/
def Obligations.FrameStartCompletes : Prop :=
  ∀ (s : State) (v : Byte) (rest : List Byte) (k : Nat) (outc : List Sym), s.able →
    s.activity = .invocation (v :: rest) k outc → s.st.idle = true → v ≠ 0x00#8 →
    room s.outCapacity outc.length 88 →
    exec (.frameStart v) s = .next { s with
      st :=
        { idle := false
          remaining := v
          sum1 := BitVec.ofNat 8 (v.toNat % 255)
          sum2 := BitVec.ofNat 8 (v.toNat % 255)
          fault := false }
      position := s.position + 1
      activity := .invocation rest (k + 1) (outc ++ serialize
        [.data 0xA5#8, .data 0xF0#8, .data 0xA5#8, .data 0xF0#8, .data 0xA5#8, .data 0xF0#8,
         .data 0x7E#8, .data 0x81#8, .data 0xC3#8, .data 0x3C#8, .data v]) }

/-- R72 with R101: PAYLOAD completes in an invocation for every byte: the byte is appended, the sums take it,
`remaining` counts down, and nothing else changes. -/
def Obligations.PayloadCompletes : Prop :=
  ∀ (s : State) (v : Byte) (rest : List Byte) (k : Nat) (outc : List Sym), s.able →
    s.activity = .invocation (v :: rest) k outc → s.st.idle = false → 2 ≤ s.st.remaining.toNat →
    room s.outCapacity outc.length 8 →
    exec (.payload (v == 0x00#8) v) s = .next { s with
      st := { s.st with
        remaining := BitVec.ofNat 8 (s.st.remaining.toNat - 1)
        sum1 := BitVec.ofNat 8 ((s.st.sum1.toNat + v.toNat) % 255)
        sum2 := BitVec.ofNat 8 ((s.st.sum2.toNat + (s.st.sum1.toNat + v.toNat) % 255) % 255) }
      position := s.position + 1
      activity := .invocation rest (k + 1) (outc ++ serialize [.data v]) }

/-- R73 with R101 and R102: PAYLOAD_LAST completes in an invocation for every byte: the byte, the two checksum bytes (which
equal the new sums) and sixteen IDLE symbols are appended, the frame closes, the sums keep their values,
and nothing else changes. -/
def Obligations.PayloadLastCompletes : Prop :=
  ∀ (s : State) (v : Byte) (rest : List Byte) (k : Nat) (outc : List Sym), s.able →
    s.activity = .invocation (v :: rest) k outc → s.st.idle = false → s.st.remaining = 1#8 →
    room s.outCapacity outc.length 40 →
    exec (.payloadLast (v == 0x00#8) v) s = .next { s with
      st := { s.st with
        idle := true
        remaining := 0#8
        sum1 := BitVec.ofNat 8 ((s.st.sum1.toNat + v.toNat) % 255)
        sum2 := BitVec.ofNat 8 ((s.st.sum2.toNat + (s.st.sum1.toNat + v.toNat) % 255) % 255) }
      position := s.position + 1
      activity := .invocation rest (k + 1) (outc ++ serialize
        [.data v,
         .data (BitVec.ofNat 8 ((s.st.sum1.toNat + v.toNat) % 255)),
         .data (BitVec.ofNat 8 ((s.st.sum2.toNat + (s.st.sum1.toNat + v.toNat) % 255) % 255))]
        ++ List.replicate 16 0xFF#8) }

/-- R126: the same four operations complete at an input transfer, whatever `OUT_CAPACITY` is: `st` is committed and the
pending burst is the serialized items; no invocation output, result or transferred symbol changes.
The transfer convention is K1 (notes/assumptions/15.md). -/
def Obligations.InputTransferLoadsBurst : Prop :=
  ∀ (s : State) (e : Edge) (more : List HostAction), s.able → s.pb = [] →
    s.activity = .waiting → s.host = .edge e :: more → e.rst = false → e.inValid = true →
    s.inReady e = true
    ∧ step s = .next { s with
        st := (operation (selected s.st e.inData) s.st).1
        position := s.position + 1
        pb := serialize (operation (selected s.st e.inData) s.st).2
        wait := e.lag
        host := more }

/-- R69: the initial state is IDLE, and each byte takes exactly the transition of the table: the operation it runs and the
frame state it leaves, where the burst fits. -/
def Obligations.TransitionsFollowTheTable : Prop :=
  State.reset.st.idle = true
  ∧ ∀ (s : State) (b : Byte) (rest : List Byte) (k : Nat) (outc : List Sym), s.able →
    s.activity = .invocation (b :: rest) k outc → room s.outCapacity outc.length (burstSize (selected s.st b)) →
    ∃ t, step s = .next t ∧
      (s.st.idle = true ∧ b = 0x00#8 ∧ exec .idleFill s = .next t ∧ t.st.idle = true
      ∨ s.st.idle = true ∧ b ≠ 0x00#8 ∧ exec (.frameStart b) s = .next t ∧ t.st.idle = false
      ∨ s.st.idle = false ∧ 2 ≤ s.st.remaining.toNat ∧ exec (.payload (b == 0x00#8) b) s = .next t ∧ t.st.idle = false
      ∨ s.st.idle = false ∧ s.st.remaining = 1#8 ∧ exec (.payloadLast (b == 0x00#8) b) s = .next t ∧ t.st.idle = true)

/-- What every well-formed operation is refused for, by name: a state outside R16 items 1 to 4 (93_implementation_defined.md
U2; item 4 where no length byte and payload so far give the state), and a byte and a state that select another operation (R75: every byte causes exactly one).
The names are the model's (notes/assumptions/8.md). -/
def Obligations.OperationsAreRefusedWhereNotSelected : Prop :=
  ∀ (s : State) (i : Instr), s.constructed = true → i.wf = true →
    ((s.st.idle = true ∧ s.st.remaining ≠ 0#8 ∨ s.st.idle = false ∧ s.st.remaining = 0#8
        ∨ s.st.sum1 = 0xFF#8 ∨ s.st.sum2 = 0xFF#8
        ∨ s.st.idle = false ∧ ∀ (v : Byte) (body : List Byte), body.length < v.toNat →
            s.st.remaining = BitVec.ofNat 8 (v.toNat - body.length) → foldAll (v :: body) ≠ (s.st.sum1, s.st.sum2)) →
      exec i s = .refused .illFormedState)
    ∧ ∀ b, s.able → s.nextByte = some b → i ≠ selected s.st b → exec i s = .refused .notSelected

/-- The frame of every operation that answers a next state: what it leaves unchanged, whether the burst was appended, loaded
or refused for capacity.
That a byte that faults counts as read is the model's reading (notes/assumptions/6.md). -/
def Obligations.OperationsLeaveTheRestUnchanged : Prop :=
  ∀ (s t : State) (i : Instr), exec i s = .next t →
    t.constructed = s.constructed ∧ t.outCapacity = s.outCapacity ∧ t.host = s.host ∧ t.wire = s.wire
    ∧ t.position = s.position + 1
    ∧ (∀ rest k outc, s.activity = .invocation rest k outc → t.pb = s.pb ∧ t.wait = s.wait)
    ∧ (t.st.fault = false → t.results = s.results)
    ∧ (t.st.fault = true → t.st = { s.st with fault := true } ∧ t.activity = .waiting
        ∧ ∃ info, t.results = s.results ++ [.fault .outputExhausted info])
    ∧ ∀ data lag, s.activity = .transfer data lag → t.st.fault = false ∧ t.activity = .waiting ∧ t.wait = lag

/-- R10's "written by" column: which operations write which field of `st`. IDLE_FILL writes none, PAYLOAD does not write
`idle`, and none clears or sets `fault` but by the exception. -/
def Obligations.OperationsWriteOnlyTheirFields : Prop :=
  (∀ s t, exec .idleFill s = .next t →
      t.st.idle = s.st.idle ∧ t.st.remaining = s.st.remaining ∧ t.st.sum1 = s.st.sum1 ∧ t.st.sum2 = s.st.sum2)
  ∧ (∀ s t z v, exec (.payload z v) s = .next t → t.st.idle = s.st.idle)
  ∧ ∀ s t i, exec i s = .next t → t.st.fault = true →
      t.st.idle = s.st.idle ∧ t.st.remaining = s.st.remaining ∧ t.st.sum1 = s.st.sum1 ∧ t.st.sum2 = s.st.sum2

/-- The invariant holds at reset (R20). -/
def Obligations.ResetMeetsTheInvariant : Prop :=
  State.reset.Inv ∧ ∀ s : State, s.resetEncoder.st.wf = true

/-- R76 for the whole machine: every step keeps the invariant: R16 items 1 to 4, the alphabet and the groups of eight on
every output, the capacity, the width of the pending burst, no open invocation after a fault. -/
def Obligations.StepKeepsTheInvariant : Prop :=
  ∀ s t : State, s.Inv → step s = .next t → t.Inv

/-- R141 and R76: in a state of the invariant every step answers a next state: no byte, no host action and no clock edge
is refused. -/
def Obligations.EveryStepIsDefined : Prop :=
  ∀ s : State, s.Inv → ∃ t, step s = .next t

/-- R149: with nothing asked of it the encoder keeps its state.
A step with no host action is the model's (notes/assumptions/20.md). -/
def Obligations.EncoderHoldsStateWhileNothingHappens : Prop :=
  ∀ s : State, s.activity = .waiting → s.host = [] → step s = .next s

/-! ### The bit serializer -/

/-- R90: SER_DATA gives eight symbols, and the one at position `k` is BIT_ONE exactly when bit `k` is 1. -/
def Obligations.DataSymbolsAreLsbFirst : Prop :=
  ∀ b : Byte, (serData b).length = 8
    ∧ ∀ k, k < 8 → (serData b)[k]? = some (if b.getLsbD k then 0x01#8 else 0x00#8)

/-- R92 and R91: a data item gives SER_DATA and the idle item eight IDLE symbols; a list gives `8 · len(items)` symbols, and
the symbols of item `k` stand at positions `8k` to `8k + 7`. -/
def Obligations.SerializerEmitsGroupsOfEight : Prop :=
  (∀ b, serialize [.data b] = serData b)
  ∧ serialize [.idle] = List.replicate 8 0xFF#8
  ∧ ∀ items : List Item, (serialize items).length = 8 * items.length
    ∧ ∀ k item, items[k]? = some item →
        ((serialize items).drop (8 * k)).take 8 = serialize [item]

/-- R52: the serializer produces no code outside the alphabet, and IDLE only for the idle item. -/
def Obligations.OnlyTheThreeCodesAreProduced : Prop :=
  (∀ items x, x ∈ serialize items → x = 0x00#8 ∨ x = 0x01#8 ∨ x = 0xFF#8)
  ∧ ∀ b, 0xFF#8 ∉ serialize [.data b]

/-- R94: a reader recovers the item list exactly from the symbols, so the serializer is injective. -/
def Obligations.ReaderRecoversTheItems : Prop :=
  (∀ items : List Item, readItems (serialize items) = some items)
  ∧ (∀ items items' : List Item, serialize items = serialize items' → items = items')
  ∧ ∀ b, 0xFF#8 ∉ serialize [.data b] ∧ serialize [.data b] ≠ serialize [.idle]

/-- R54: the header's symbols, bit 0 first. -/
def Obligations.HeaderSymbolsAreTheTables : Prop :=
  serialize headerItems =
    [1, 0, 1, 0, 0, 1, 0, 1,  0, 0, 0, 0, 1, 1, 1, 1,  1, 0, 1, 0, 0, 1, 0, 1,  0, 0, 0, 0, 1, 1, 1, 1,
     1, 0, 1, 0, 0, 1, 0, 1,  0, 0, 0, 0, 1, 1, 1, 1,  0, 1, 1, 1, 1, 1, 1, 0,  1, 0, 0, 0, 0, 0, 0, 1,
     1, 1, 0, 0, 0, 0, 1, 1,  0, 0, 1, 1, 1, 1, 0, 0]

/-! ### The checksum accumulator -/

/-- R101: CK_FOLD on every accumulator and byte: the sums modulo 255, `sum2` taking the updated `sum1`. -/
def Obligations.FoldAddsModulo255 : Prop :=
  ∀ (s1 s2 b : Byte),
    (ckFold (s1, s2) b).1.toNat = (s1.toNat + b.toNat) % 255
    ∧ (ckFold (s1, s2) b).2.toNat = (s2.toNat + (s1.toNat + b.toNat) % 255) % 255

/-- R105: the checksum bytes of any folded bytes lie in 0 to 254 and equal the sums. -/
def Obligations.ChecksumBytesAreNeverFF : Prop :=
  ∀ xs : List Byte, ckFinal (foldAll xs) = foldAll xs
    ∧ (ckFinal (foldAll xs)).1.toNat ≤ 254 ∧ (ckFinal (foldAll xs)).2.toNat ≤ 254

/-- R104: reducing after every fold agrees with reducing once at the end, and for a length byte and at most 255 payload
bytes the unreduced sums need no more than 16 and 23 bits, which the largest frame needs. -/
def Obligations.DeferredReductionAgrees : Prop :=
  (∀ xs : List Byte,
    (foldAll xs).1.toNat = (deferredSums xs).1 % 255 ∧ (foldAll xs).2.toNat = (deferredSums xs).2 % 255
    ∧ (xs.length ≤ 256 → (deferredSums xs).1 ≤ 65280 ∧ (deferredSums xs).2 ≤ 8388480))
  ∧ deferredSums (List.replicate 256 0xFF#8) = (65280, 8388480)
  ∧ 2 ^ 15 ≤ 65280 ∧ 65280 < 2 ^ 16 ∧ 2 ^ 22 ≤ 8388480 ∧ 8388480 < 2 ^ 23

/-- R103: the closed form of the two checksum bytes, for every byte sequence. -/
def Obligations.ChecksumHasTheClosedForm : Prop :=
  ∀ xs : List Byte, ckFinal (foldAll xs) = (closedCk1 xs, closedCk2 xs)

/-- R16 item 4: inside a frame the sums are the folds of the length byte and of the payload bytes so far, and `remaining`
is what is still owed; and the states inside a frame that the model gives a meaning are exactly those that some
length byte and payload so far give. -/
def Obligations.SumsAreFoldsOfTheOpenFrame : Prop :=
  (∀ (st : EncoderState) (v : Byte) (body : List Byte), st.idle = true → v ≠ 0x00#8 → body.length < v.toNat →
    (encodeBytes st (v :: body)).1 =
      { idle := false
        remaining := BitVec.ofNat 8 (v.toNat - body.length)
        sum1 := (foldAll (v :: body)).1
        sum2 := (foldAll (v :: body)).2
        fault := st.fault })
  ∧ ∀ st : EncoderState, st.idle = false →
    (st.wf = true ↔ ∃ (v : Byte) (body : List Byte), body.length < v.toNat
      ∧ st.remaining = BitVec.ofNat 8 (v.toNat - body.length) ∧ foldAll (v :: body) = (st.sum1, st.sum2))

/-- R107 and R14: from two states IDLE the output of any bytes is the same, so no frame's symbols depend on what an earlier
frame left in the sums or in `remaining`. -/
def Obligations.OutputIgnoresEarlierFrames : Prop :=
  ∀ (st1 st2 : EncoderState) (w : List Byte), st1.idle = true → st2.idle = true →
    (encodeBytes st1 w).2 = (encodeBytes st2 w).2

/-! ### Whole frames and runs of idle -/

/-- R55 and R77: the bytes of one frame, from IDLE, are one FRAME_START and one PAYLOAD_LAST (the other `LEN − 1` are
PAYLOAD), give exactly the items of R55 with the checksum of R103, `8 · (LEN + 15)` symbols, and leave
the state IDLE with nothing owed. -/
def Obligations.FrameBytesGiveTheFrameItems : Prop :=
  ∀ (st : EncoderState) (v : Byte) (body : List Byte), st.idle = true → v ≠ 0x00#8 → body.length = v.toNat →
    encodeBytes st (v :: body)
      = ({ idle := true
           remaining := 0#8
           sum1 := closedCk1 (v :: body)
           sum2 := closedCk2 (v :: body)
           fault := st.fault }, serialize (frameItems v body))
    ∧ countStarts st (v :: body) = 1 ∧ countLasts st (v :: body) = 1
    ∧ (serialize (frameItems v body)).length = 8 * (v.toNat + 15)

/-- R55 on the machine: one invocation of a length byte and its payload returns exactly the frame. That opening and returning
an invocation take a step each is the model's choice (notes/assumptions/3.md). -/
def Obligations.InvocationSendsOneWholeFrame : Prop :=
  ∀ (s : State) (v : Byte) (body : List Byte) (more : List HostAction), s.able → s.activity = .waiting →
    s.st.idle = true → v ≠ 0x00#8 → body.length = v.toNat → s.host = .call (v :: body) :: more →
    room s.outCapacity 0 (8 * (v.toNat + 15)) →
    runSteps (v.toNat + 3) s = .next { s with
      st :=
        { idle := true
          remaining := 0#8
          sum1 := closedCk1 (v :: body)
          sum2 := closedCk2 (v :: body)
          fault := false }
      position := s.position + v.toNat + 1
      results := s.results ++ [.ok (serialize (frameItems v body))]
      host := more }

/-- R56 and R70 on the machine: an invocation of `n` zero bytes in IDLE returns exactly `8n` IDLE symbols and leaves `st`
unchanged; `n = 0` included (R124). Its two steps beside the bytes are the model's choice (notes/assumptions/3.md). -/
def Obligations.ZeroBytesInIdleGiveIdleSymbols : Prop :=
  ∀ (s : State) (n : Nat) (more : List HostAction), s.able → s.activity = .waiting → s.st.idle = true →
    s.host = .call (List.replicate n 0x00#8) :: more → room s.outCapacity 0 (8 * n) →
    runSteps (n + 2) s = .next { s with
      position := s.position + n
      results := s.results ++ [.ok (List.replicate (8 * n) 0xFF#8)]
      host := more }

/-! ### The output buffer and the invocation -/

/-- R117 and R118: the burst of each operation in symbols, at most 88. -/
def Obligations.BurstSizesAreFixed : Prop :=
  ∀ st : EncoderState,
    (serialize (operation .idleFill st).2).length = 8
    ∧ (∀ v, (serialize (operation (.frameStart v) st).2).length = 88)
    ∧ (∀ z v, (serialize (operation (.payload z v) st).2).length = 8)
    ∧ (∀ z v, (serialize (operation (.payloadLast z v) st).2).length = 40)
    ∧ ∀ i, (serialize (operation i st).2).length ≤ 88

/-- R116 and R32: in an invocation that goes on, a step appends a burst of 8, 88 or 40 symbols to `OUTC`, consumes
exactly one byte, and changes no symbol already there. -/
def Obligations.OutputIsAppendOnly : Prop :=
  ∀ (s t : State) (rest rest' : List Byte) (k k' : Nat) (outc outc' : List Sym), step s = .next t →
    s.activity = .invocation rest k outc → t.activity = .invocation rest' k' outc' →
    k' = k + 1 ∧ (∃ b, rest = b :: rest') ∧
    ∃ syms, outc' = outc ++ syms ∧ (syms.length = 8 ∨ syms.length = 88 ∨ syms.length = 40)

/-- R119 and R120 on the machine: a call on a constructed encoder in a state of R16 returns, within a step to open, one a
byte and one to return (the model's choice, notes/assumptions/3.md), what ENCODE_CHUNK gives, and leaves the state that ENCODE_CHUNK leaves. -/
def Obligations.CallRefinesEncodeChunk : Prop :=
  ∀ (s : State) (c : List Byte) (more : List HostAction), s.constructed = true → s.st.wf = true →
    s.activity = .waiting → s.host = .call c :: more →
    ∃ n t, n ≤ c.length + 2 ∧ runSteps n s = .next t
      ∧ t = { s with
          st := (encodeChunk s.outCapacity s.st c).1
          position := t.position
          results := s.results ++ [(encodeChunk s.outCapacity s.st c).2]
          host := more }
      ∧ s.position ≤ t.position ∧ t.position ≤ s.position + c.length

/-- R120: an ENCODE_CHUNK that returns `Ok` returns the serialized items of each byte in order, with the last step's state. -/
def Obligations.OkChunkIsTheJoinedBursts : Prop :=
  ∀ (cap : Option Nat) (st st' : EncoderState) (c : List Byte) (outc : List Sym),
    encodeChunk cap st c = (st', .ok outc) → (st', outc) = encodeBytes st c

/-- R121: the chunking law, with no capacity and, under a capacity, for partitions in which no call faults. -/
def Obligations.ChunkingDoesNotChangeTheOutput : Prop :=
  ∀ (st : EncoderState) (chunks : List (List Byte)), st.fault = false →
    (noFault (encodeChunks none st chunks).2
      ∧ encodeChunk none st chunks.flatten
          = ((encodeChunks none st chunks).1, .ok (returnedSyms (encodeChunks none st chunks).2)))
    ∧ ∀ c, noFault (encodeChunks (some c) st chunks).2 →
        ((encodeChunks (some c) st chunks).1, returnedSyms (encodeChunks (some c) st chunks).2)
            = encodeBytes st chunks.flatten
        ∧ (noFault [(encodeChunk (some c) st chunks.flatten).2] →
            encodeChunk (some c) st chunks.flatten
              = ((encodeChunks (some c) st chunks).1, .ok (returnedSyms (encodeChunks (some c) st chunks).2)))

/-- R122: the length of a chunk's output, its largest value over all states, and a chunk of each length that reaches it. -/
def Obligations.ChunkOutputLength : Prop :=
  (∀ (st : EncoderState) (c : List Byte),
    (encodeBytes st c).2.length = 8 * c.length + 80 * countStarts st c + 32 * countLasts st c
    ∧ (encodeBytes st c).2.length ≤ 64 * c.length + 24 * (c.length % 2))
  ∧ ∀ n, (encodeBytes EncoderState.reset (List.replicate n 0x01#8)).2.length = 64 * n + 24 * (n % 2)

/-- R166: a capacity of `64·n + 24·(n mod 2)` symbols, or of `88·n`, is enough for every chunk of `n` bytes; with less than
the first there is a chunk of `n` bytes that faults. -/
def Obligations.StatedCapacityIsEnough : Prop :=
  (∀ (st : EncoderState) (c : List Byte) (cap : Nat), st.fault = false →
    64 * c.length + 24 * (c.length % 2) ≤ cap ∨ 88 * c.length ≤ cap →
    encodeChunk (some cap) st c = ((encodeBytes st c).1, .ok (encodeBytes st c).2))
  ∧ ∀ n cap, cap < 64 * n + 24 * (n % 2) →
    ∃ c info, c.length = n
      ∧ (encodeChunk (some cap) EncoderState.reset c).2 = .fault .outputExhausted info

/-- R124: the empty chunk returns `Ok([])` and leaves `st` unchanged. -/
def Obligations.EmptyChunkReturnsNothing : Prop :=
  (∀ cap st, st.fault = false → encodeChunk cap st [] = (st, .ok []))
  ∧ ∀ (s : State) (more : List HostAction), s.constructed = true → s.st.fault = false → s.activity = .waiting →
    s.host = .call [] :: more →
    ∃ n, runSteps n s = .next { s with results := s.results ++ [.ok []], host := more }

/-- R41 and R78: when an invocation's bytes are used up it returns all of `OUTC`; `st` stays as the last byte left it, an
open frame included, and nothing is emitted for it.
That the return takes a step is the model's choice (notes/assumptions/3.md). -/
def Obligations.ReturnGivesAllAndClosesNothing : Prop :=
  ∀ (s : State) (k : Nat) (outc : List Sym), s.activity = .invocation [] k outc → s.st.fault = false →
    step s = .next { s with activity := .waiting, results := s.results ++ [.ok outc] }

/-! ### The exception -/

/-- R140 and R143 items 1 to 3: the one exception, code 1, is raised by a burst that does not fit, for each of the four
operations: the burst is not appended, `st` keeps its values but for the fault bit, the invocation ends with the
remaining bytes unread, and the host gets the fault, its information, and none of the symbols appended before.
That the faulting byte itself counts as read is the model's reading (notes/assumptions/6.md). -/
def Obligations.ExhaustionTakesTheFault : Prop :=
  (∀ n : ExceptionName, n = .outputExhausted ∧ n.code = 1)
  ∧ ∀ (s : State) (b : Byte) (rest : List Byte) (k : Nat) (outc : List Sym) (c : Nat), s.able →
    s.activity = .invocation (b :: rest) k outc → s.outCapacity = some c →
    c < outc.length + burstSize (selected s.st b) →
    exec (selected s.st b) s = .next { s with
      st := { s.st with fault := true }
      position := s.position + 1
      activity := .waiting
      results := s.results ++
        [.fault .outputExhausted (.exhausted k (burstSize (selected s.st b)) outc.length c)] }

/-- R143 item 3: while `st.fault = 1` an invocation returns the fault at once, consumes nothing and returns no symbols, and
at port level `in_ready` stays 0. A faulted state is never the end of a run, and a run in which an invocation faulted has
no output (R143, with R168's end of a run; notes/assumptions/23.md).
That a call of a faulted encoder takes one step is the model's choice (3.md). -/
def Obligations.FaultIsSticky : Prop :=
  (∀ s : State, s.constructed = true → s.st.fault = true → s.activity = .waiting →
    (∀ c more, s.host = .call c :: more →
      step s = .next { s with host := more, results := s.results ++ [.fault .outputExhausted .sticky] })
    ∧ ∀ e : Edge, s.inReady e = false)
  ∧ (∀ s : State, s.st.fault = true → s.final = false ∧ s.runOutput = none)
  ∧ ∀ (s : State) (n : ExceptionName) (info : FaultInfo), .fault n info ∈ s.results → s.runOutput = none

/-- R143 item 4: a step that clears the fault bit is a reset: the host's, or an edge with `rst = 1`. -/
def Obligations.OnlyResetClearsTheFault : Prop :=
  ∀ s t : State, step s = .next t → s.st.fault = true → t.st.fault = false →
    s.activity = .waiting
    ∧ ((∃ more, s.host = .reset :: more) ∨ ∃ e more, s.host = .edge e :: more ∧ e.rst = true)

/-- R123 and R132: a step that sets the fault bit is a byte of an invocation under a finite capacity that its burst
exceeds; with `OUT_CAPACITY = none`, and at port level, no step sets it. -/
def Obligations.OnlyExhaustionSetsTheFault : Prop :=
  ∀ s t : State, s.activityGood → step s = .next t → s.st.fault = false → t.st.fault = true →
    ∃ b rest k outc c, s.activity = .invocation (b :: rest) k outc ∧ s.outCapacity = some c
      ∧ c < outc.length + burstSize (selected s.st b)

/-! ### The port-level form -/

/-- R125 and R126: the handshake outputs as functions of the state and `rst`.
That `out_sym` has no value while `out_valid = 0` is the model's choice (notes/assumptions/12.md). -/
def Obligations.HandshakeOutputsFollowTheState : Prop :=
  ∀ (s : State) (e : Edge),
    (s.inReady e = true ↔ e.rst = false ∧ s.busy e = false ∧ s.st.fault = false)
    ∧ (e.rst = false → (s.busy e = true ↔ 0 < s.pb.length))
    ∧ (s.pb = [] → s.outValid e = false)
    ∧ (s.faultOut = true ↔ s.st.fault = true)
    ∧ ∀ x, s.outSym e = some x ↔ s.outValid e = true ∧ s.pb[0]? = some x

/-- R127: the transfer of a symbol takes the first pending symbol, and nothing but the burst, the latency and the wire changes.
The transfer convention is K1 (notes/assumptions/15.md), and `out_valid` rises as soon as the latency has passed (13.md). -/
def Obligations.OutputTransferSendsTheFirstSymbol : Prop :=
  ∀ (s : State) (e : Edge) (more : List HostAction) (x : Sym) (xs : List Sym), s.constructed = true →
    s.activity = .waiting → s.host = .edge e :: more → e.rst = false → s.pb = x :: xs → s.wait = 0 →
    e.outReady = true →
    s.outSym e = some x
    ∧ step s = .next { s with pb := xs, wait := e.lag, wire := s.wire ++ [x], host := more }

/-- R129, R127 and R167: however long the consumer holds `out_ready = 0`, the block keeps its pending burst and
`in_ready = 0`, loses nothing and does not move on; `out_valid` and `out_sym`, once presented, hold.
How the latency counts down is the model's reading (notes/assumptions/13.md). -/
def Obligations.StalledOutputLosesNothing : Prop :=
  ∀ (es : List Edge) (s : State) (more : List HostAction), s.constructed = true → s.pb ≠ [] →
    s.edgesAhead es more → (∀ e ∈ es, e.rst = false ∧ e.outReady = false) →
    ∃ t, runSteps es.length s = .next t
      ∧ t = { s with wait := t.wait, host := more }
      ∧ t.wait = s.wait - es.length
      ∧ ∀ e : Edge, e.rst = false → t.busy e = true ∧ t.inReady e = false
          ∧ (s.outValid e = true → t.outValid e = true ∧ t.outSym e = s.outSym e)

/-- R128: `st` changes only at input transfers and at reset: an edge without `rst` that transfers no byte keeps it, and while
a burst is pending no byte is transferred.
The transfer convention is K1 (notes/assumptions/15.md). -/
def Obligations.StateChangesOnlyAtInputTransfers : Prop :=
  ∀ (s t : State) (e : Edge) (more : List HostAction), s.activity = .waiting → s.host = .edge e :: more →
    e.rst = false → step s = .next t →
    (s.inTransfer e = false →
      t.st = s.st ∧ t.position = s.position ∧ t.results = s.results ∧ t.outCapacity = s.outCapacity)
    ∧ (s.pb ≠ [] → s.inTransfer e = false)

/-- R131 with R129 and R130: over any clock edges without `rst`, whatever `in_valid`, `in_data`, `out_ready` and the
latencies are, the symbols that have left the port and those still pending are together the encoding
of the bytes transferred, in order; so when `busy = 0` the port has sent exactly the encoding, and the
state is the one the bytes leave.
The transfer convention is K1 (notes/assumptions/15.md), and the order at one edge is the model's reading (13.md). -/
def Obligations.PortSendsWhatTheTransactionLevelSends : Prop :=
  ∀ (es : List Edge) (s : State) (more : List HostAction), s.able → s.edgesAhead es more →
    (∀ e ∈ es, e.rst = false) →
    ∃ t, runSteps es.length s = .next t
      ∧ t.wire ++ t.pb = s.wire ++ s.pb ++ (encodeBytes s.st (acceptedBytes es s)).2
      ∧ t.st = (encodeBytes s.st (acceptedBytes es s)).1
      ∧ t.position = s.position + (acceptedBytes es s).length
      ∧ t.results = s.results ∧ t.activity = .waiting ∧ t.host = more

/-- R171: with latency 0 and a consumer that is always ready, a pending burst takes exactly as many edges as it has
symbols, and then the port is free.
That `out_valid` rises at once with latency 0 is the model's reading (notes/assumptions/13.md). -/
def Obligations.ReadyConsumerDrainsTheBurst : Prop :=
  ∀ (syms : List Sym) (es : List Edge) (s : State) (more : List HostAction), s.constructed = true →
    s.pb = syms → s.wait = 0 → s.edgesAhead es more → es.length = syms.length →
    (∀ e ∈ es, e.rst = false ∧ e.outReady = true ∧ e.lag = 0) →
    runSteps es.length s = .next
      { s with pb := [], wait := 0, wire := s.wire ++ syms, host := more }

/-! ### Several encoders -/

/-- R44 and R151: whatever the steps of the other encoders are and however they interleave with an encoder's own, its call
returns what ENCODE_CHUNK of its own state and chunk returns, and it ends in the state that ENCODE_CHUNK leaves; an encoder
that takes no step keeps its state. That several encoders are a list is the model's choice (notes/assumptions/18.md), and
so are the two steps of a call beside its bytes (3.md). -/
def Obligations.EncodersDoNotReachEachOther : Prop :=
  ∀ (encoders : List State) (schedule : List Nat) (j : Nat) (s : State), encoders[j]? = some s →
    (j ∉ schedule → (stepEncoders schedule encoders)[j]? = some s)
    ∧ ∀ c : List Byte, s.constructed = true → s.st.wf = true → s.activity = .waiting → s.host = [.call c] →
      c.length + 2 ≤ schedule.count j →
      ∃ t, (stepEncoders schedule encoders)[j]? = some t
        ∧ t = { s with
            st := (encodeChunk s.outCapacity s.st c).1
            position := t.position
            results := s.results ++ [(encodeChunk s.outCapacity s.st c).2]
            host := [] }
end

