-- ==== Sys2Proof/Laws/Checksum.lean ====
section
/-! SUPPORT. The checksum accumulator as arithmetic on naturals. -/

namespace Sys2Proof.Machine

theorem addMod255_toNat (a b : Byte) : (addMod255 a b).toNat = (a.toNat + b.toNat) % 255 := by
  have ha := a.isLt
  have hb := b.isLt
  simp only [addMod255, BitVec.toNat_setWidth, BitVec.toNat_umod, BitVec.toNat_add, BitVec.toNat_ofNat,
    show (255 % 2 ^ 9 : Nat) = 255 from rfl]
  omega

theorem addMod255_le (a b : Byte) : (addMod255 a b).toNat ≤ 254 := by
  rw [addMod255_toNat]
  omega

/-- The accumulator's registers as the number the spec writes. -/
theorem addMod255_eq_ofNat (a b : Byte) :
    addMod255 a b = BitVec.ofNat 8 ((a.toNat + b.toNat) % 255) := by
  apply BitVec.eq_of_toNat_eq
  rw [addMod255_toNat, BitVec.toNat_ofNat]
  omega

theorem ckFold_le (acc : Byte × Byte) (b : Byte) :
    (ckFold acc b).1.toNat ≤ 254 ∧ (ckFold acc b).2.toNat ≤ 254 :=
  ⟨addMod255_le _ _, addMod255_le _ _⟩

/-- On reduced sums CK_FINAL changes nothing (42_checksum.md R102). -/
theorem ckFinal_of_le {acc : Byte × Byte} (h1 : acc.1.toNat ≤ 254) (h2 : acc.2.toNat ≤ 254) :
    ckFinal acc = acc := by
  have keep : ∀ a : Byte, a.toNat ≤ 254 → a % 255#8 = a := fun a ha => by
    apply BitVec.eq_of_toNat_eq
    rw [BitVec.toNat_umod]
    exact Nat.mod_eq_of_lt (Nat.lt_succ_of_le ha)
  rw [ckFinal, keep _ h1, keep _ h2]

end Sys2Proof.Machine
end

