-- ==== Sys2Proof/Laws/Serializer.lean ====
section
/-! SUPPORT. The small lemmas of the bit serializer. -/

namespace Sys2Proof.Machine

@[simp] theorem serialize_nil : serialize [] = [] := rfl

@[simp] theorem serialize_cons (item : Item) (items : List Item) :
    serialize (item :: items) = serItem item ++ serialize items := rfl

@[simp] theorem serData_length (b : Byte) : (serData b).length = 8 := rfl

@[simp] theorem serIdle_length : serIdle.length = 8 := rfl

@[simp] theorem serItem_length (item : Item) : (serItem item).length = 8 := by
  cases item <;> rfl

theorem serialize_append (xs ys : List Item) :
    serialize (xs ++ ys) = serialize xs ++ serialize ys := by
  induction xs with
  | nil => rfl
  | cons x xs ih => simp [ih]

theorem bitSym_of_mem_serData {x : Sym} {b : Byte} (h : x ∈ serData b) : ∃ v, x = bitSym v := by
  simp only [serData, List.mem_cons, List.not_mem_nil, or_false] at h
  rcases h with h | h | h | h | h | h | h | h <;> exact ⟨_, h⟩

theorem bitSym_ne_idle (v : Bool) : bitSym v ≠ Config.idleSym := by
  cases v <;> decide

end Sys2Proof.Machine
end

