-- ==== Sys2Proof/Laws/State.lean ====
section
/-! SUPPORT. What each named update of the state does to each field: true by unfolding, so that no proof unfolds a record update. -/

namespace Sys2Proof.Machine

@[simp] theorem State.giveResult_constructed (r : CallResult) (s : State) :
    (s.giveResult r).constructed = s.constructed := rfl
@[simp] theorem State.giveResult_st (r : CallResult) (s : State) :
    (s.giveResult r).st = s.st := rfl
@[simp] theorem State.giveResult_outCapacity (r : CallResult) (s : State) :
    (s.giveResult r).outCapacity = s.outCapacity := rfl
@[simp] theorem State.giveResult_position (r : CallResult) (s : State) :
    (s.giveResult r).position = s.position := rfl
@[simp] theorem State.giveResult_activity (r : CallResult) (s : State) :
    (s.giveResult r).activity = s.activity := rfl
@[simp] theorem State.giveResult_pb (r : CallResult) (s : State) :
    (s.giveResult r).pb = s.pb := rfl
@[simp] theorem State.giveResult_wait (r : CallResult) (s : State) :
    (s.giveResult r).wait = s.wait := rfl
@[simp] theorem State.giveResult_wire (r : CallResult) (s : State) :
    (s.giveResult r).wire = s.wire := rfl
@[simp] theorem State.giveResult_results (r : CallResult) (s : State) :
    (s.giveResult r).results = s.results ++ [r] := rfl
@[simp] theorem State.giveResult_host (r : CallResult) (s : State) :
    (s.giveResult r).host = s.host := rfl

@[simp] theorem State.raiseOutputExhausted_constructed (info : FaultInfo) (s : State) :
    (s.raiseOutputExhausted info).constructed = s.constructed := rfl
@[simp] theorem State.raiseOutputExhausted_st (info : FaultInfo) (s : State) :
    (s.raiseOutputExhausted info).st = { s.st with fault := true } := rfl
@[simp] theorem State.raiseOutputExhausted_outCapacity (info : FaultInfo) (s : State) :
    (s.raiseOutputExhausted info).outCapacity = s.outCapacity := rfl
@[simp] theorem State.raiseOutputExhausted_position (info : FaultInfo) (s : State) :
    (s.raiseOutputExhausted info).position = s.position + 1 := rfl
@[simp] theorem State.raiseOutputExhausted_activity (info : FaultInfo) (s : State) :
    (s.raiseOutputExhausted info).activity = .waiting := rfl
@[simp] theorem State.raiseOutputExhausted_pb (info : FaultInfo) (s : State) :
    (s.raiseOutputExhausted info).pb = s.pb := rfl
@[simp] theorem State.raiseOutputExhausted_wait (info : FaultInfo) (s : State) :
    (s.raiseOutputExhausted info).wait = s.wait := rfl
@[simp] theorem State.raiseOutputExhausted_wire (info : FaultInfo) (s : State) :
    (s.raiseOutputExhausted info).wire = s.wire := rfl
@[simp] theorem State.raiseOutputExhausted_results (info : FaultInfo) (s : State) :
    (s.raiseOutputExhausted info).results = s.results ++ [.fault .outputExhausted info] := rfl
@[simp] theorem State.raiseOutputExhausted_host (info : FaultInfo) (s : State) :
    (s.raiseOutputExhausted info).host = s.host := rfl

@[simp] theorem State.appendBurst_constructed (st' : EncoderState) (syms : List Sym) (rest : List Byte) (k : Nat) (outc : List Sym) (s : State) :
    (s.appendBurst st' syms rest k outc).constructed = s.constructed := rfl
@[simp] theorem State.appendBurst_st (st' : EncoderState) (syms : List Sym) (rest : List Byte) (k : Nat) (outc : List Sym) (s : State) :
    (s.appendBurst st' syms rest k outc).st = st' := rfl
@[simp] theorem State.appendBurst_outCapacity (st' : EncoderState) (syms : List Sym) (rest : List Byte) (k : Nat) (outc : List Sym) (s : State) :
    (s.appendBurst st' syms rest k outc).outCapacity = s.outCapacity := rfl
@[simp] theorem State.appendBurst_position (st' : EncoderState) (syms : List Sym) (rest : List Byte) (k : Nat) (outc : List Sym) (s : State) :
    (s.appendBurst st' syms rest k outc).position = s.position + 1 := rfl
@[simp] theorem State.appendBurst_activity (st' : EncoderState) (syms : List Sym) (rest : List Byte) (k : Nat) (outc : List Sym) (s : State) :
    (s.appendBurst st' syms rest k outc).activity = .invocation rest (k + 1) (outc ++ syms) := rfl
@[simp] theorem State.appendBurst_pb (st' : EncoderState) (syms : List Sym) (rest : List Byte) (k : Nat) (outc : List Sym) (s : State) :
    (s.appendBurst st' syms rest k outc).pb = s.pb := rfl
@[simp] theorem State.appendBurst_wait (st' : EncoderState) (syms : List Sym) (rest : List Byte) (k : Nat) (outc : List Sym) (s : State) :
    (s.appendBurst st' syms rest k outc).wait = s.wait := rfl
@[simp] theorem State.appendBurst_wire (st' : EncoderState) (syms : List Sym) (rest : List Byte) (k : Nat) (outc : List Sym) (s : State) :
    (s.appendBurst st' syms rest k outc).wire = s.wire := rfl
@[simp] theorem State.appendBurst_results (st' : EncoderState) (syms : List Sym) (rest : List Byte) (k : Nat) (outc : List Sym) (s : State) :
    (s.appendBurst st' syms rest k outc).results = s.results := rfl
@[simp] theorem State.appendBurst_host (st' : EncoderState) (syms : List Sym) (rest : List Byte) (k : Nat) (outc : List Sym) (s : State) :
    (s.appendBurst st' syms rest k outc).host = s.host := rfl

@[simp] theorem State.loadBurst_constructed (st' : EncoderState) (syms : List Sym) (lag : Nat) (s : State) :
    (s.loadBurst st' syms lag).constructed = s.constructed := rfl
@[simp] theorem State.loadBurst_st (st' : EncoderState) (syms : List Sym) (lag : Nat) (s : State) :
    (s.loadBurst st' syms lag).st = st' := rfl
@[simp] theorem State.loadBurst_outCapacity (st' : EncoderState) (syms : List Sym) (lag : Nat) (s : State) :
    (s.loadBurst st' syms lag).outCapacity = s.outCapacity := rfl
@[simp] theorem State.loadBurst_position (st' : EncoderState) (syms : List Sym) (lag : Nat) (s : State) :
    (s.loadBurst st' syms lag).position = s.position + 1 := rfl
@[simp] theorem State.loadBurst_activity (st' : EncoderState) (syms : List Sym) (lag : Nat) (s : State) :
    (s.loadBurst st' syms lag).activity = .waiting := rfl
@[simp] theorem State.loadBurst_pb (st' : EncoderState) (syms : List Sym) (lag : Nat) (s : State) :
    (s.loadBurst st' syms lag).pb = syms := rfl
@[simp] theorem State.loadBurst_wait (st' : EncoderState) (syms : List Sym) (lag : Nat) (s : State) :
    (s.loadBurst st' syms lag).wait = lag := rfl
@[simp] theorem State.loadBurst_wire (st' : EncoderState) (syms : List Sym) (lag : Nat) (s : State) :
    (s.loadBurst st' syms lag).wire = s.wire := rfl
@[simp] theorem State.loadBurst_results (st' : EncoderState) (syms : List Sym) (lag : Nat) (s : State) :
    (s.loadBurst st' syms lag).results = s.results := rfl
@[simp] theorem State.loadBurst_host (st' : EncoderState) (syms : List Sym) (lag : Nat) (s : State) :
    (s.loadBurst st' syms lag).host = s.host := rfl

@[simp] theorem State.resetEncoder_constructed (s : State) :
    (s.resetEncoder).constructed = true := rfl
@[simp] theorem State.resetEncoder_st (s : State) :
    (s.resetEncoder).st = EncoderState.reset := rfl
@[simp] theorem State.resetEncoder_outCapacity (s : State) :
    (s.resetEncoder).outCapacity = s.outCapacity := rfl
@[simp] theorem State.resetEncoder_position (s : State) :
    (s.resetEncoder).position = s.position := rfl
@[simp] theorem State.resetEncoder_activity (s : State) :
    (s.resetEncoder).activity = s.activity := rfl
@[simp] theorem State.resetEncoder_pb (s : State) :
    (s.resetEncoder).pb = [] := rfl
@[simp] theorem State.resetEncoder_wait (s : State) :
    (s.resetEncoder).wait = 0 := rfl
@[simp] theorem State.resetEncoder_wire (s : State) :
    (s.resetEncoder).wire = s.wire := rfl
@[simp] theorem State.resetEncoder_results (s : State) :
    (s.resetEncoder).results = s.results := rfl
@[simp] theorem State.resetEncoder_host (s : State) :
    (s.resetEncoder).host = s.host := rfl

@[simp] theorem State.returnOk_constructed (outc : List Sym) (s : State) :
    (s.returnOk outc).constructed = s.constructed := rfl
@[simp] theorem State.returnOk_st (outc : List Sym) (s : State) :
    (s.returnOk outc).st = s.st := rfl
@[simp] theorem State.returnOk_outCapacity (outc : List Sym) (s : State) :
    (s.returnOk outc).outCapacity = s.outCapacity := rfl
@[simp] theorem State.returnOk_position (outc : List Sym) (s : State) :
    (s.returnOk outc).position = s.position := rfl
@[simp] theorem State.returnOk_activity (outc : List Sym) (s : State) :
    (s.returnOk outc).activity = .waiting := rfl
@[simp] theorem State.returnOk_pb (outc : List Sym) (s : State) :
    (s.returnOk outc).pb = s.pb := rfl
@[simp] theorem State.returnOk_wait (outc : List Sym) (s : State) :
    (s.returnOk outc).wait = s.wait := rfl
@[simp] theorem State.returnOk_wire (outc : List Sym) (s : State) :
    (s.returnOk outc).wire = s.wire := rfl
@[simp] theorem State.returnOk_results (outc : List Sym) (s : State) :
    (s.returnOk outc).results = s.results ++ [.ok outc] := rfl
@[simp] theorem State.returnOk_host (outc : List Sym) (s : State) :
    (s.returnOk outc).host = s.host := rfl

@[simp] theorem State.dropAction_constructed (s : State) :
    (s.dropAction).constructed = s.constructed := rfl
@[simp] theorem State.dropAction_st (s : State) :
    (s.dropAction).st = s.st := rfl
@[simp] theorem State.dropAction_outCapacity (s : State) :
    (s.dropAction).outCapacity = s.outCapacity := rfl
@[simp] theorem State.dropAction_position (s : State) :
    (s.dropAction).position = s.position := rfl
@[simp] theorem State.dropAction_activity (s : State) :
    (s.dropAction).activity = s.activity := rfl
@[simp] theorem State.dropAction_pb (s : State) :
    (s.dropAction).pb = s.pb := rfl
@[simp] theorem State.dropAction_wait (s : State) :
    (s.dropAction).wait = s.wait := rfl
@[simp] theorem State.dropAction_wire (s : State) :
    (s.dropAction).wire = s.wire := rfl
@[simp] theorem State.dropAction_results (s : State) :
    (s.dropAction).results = s.results := rfl
@[simp] theorem State.dropAction_host (s : State) :
    (s.dropAction).host = s.host.tail := rfl

@[simp] theorem State.sendSym_constructed (lag : Nat) (s : State) :
    (s.sendSym lag).constructed = s.constructed := rfl
@[simp] theorem State.sendSym_st (lag : Nat) (s : State) :
    (s.sendSym lag).st = s.st := rfl
@[simp] theorem State.sendSym_outCapacity (lag : Nat) (s : State) :
    (s.sendSym lag).outCapacity = s.outCapacity := rfl
@[simp] theorem State.sendSym_position (lag : Nat) (s : State) :
    (s.sendSym lag).position = s.position := rfl
@[simp] theorem State.sendSym_activity (lag : Nat) (s : State) :
    (s.sendSym lag).activity = s.activity := rfl
@[simp] theorem State.sendSym_pb (lag : Nat) (s : State) :
    (s.sendSym lag).pb = s.pb.tail := rfl
@[simp] theorem State.sendSym_wait (lag : Nat) (s : State) :
    (s.sendSym lag).wait = lag := rfl
@[simp] theorem State.sendSym_wire (lag : Nat) (s : State) :
    (s.sendSym lag).wire = s.wire ++ s.pb.head?.toList := rfl
@[simp] theorem State.sendSym_results (lag : Nat) (s : State) :
    (s.sendSym lag).results = s.results := rfl
@[simp] theorem State.sendSym_host (lag : Nat) (s : State) :
    (s.sendSym lag).host = s.host := rfl

@[simp] theorem State.passCycle_constructed (s : State) :
    (s.passCycle).constructed = s.constructed := rfl
@[simp] theorem State.passCycle_st (s : State) :
    (s.passCycle).st = s.st := rfl
@[simp] theorem State.passCycle_outCapacity (s : State) :
    (s.passCycle).outCapacity = s.outCapacity := rfl
@[simp] theorem State.passCycle_position (s : State) :
    (s.passCycle).position = s.position := rfl
@[simp] theorem State.passCycle_activity (s : State) :
    (s.passCycle).activity = s.activity := rfl
@[simp] theorem State.passCycle_pb (s : State) :
    (s.passCycle).pb = s.pb := rfl
@[simp] theorem State.passCycle_wait (s : State) :
    (s.passCycle).wait = s.wait - 1 := rfl
@[simp] theorem State.passCycle_wire (s : State) :
    (s.passCycle).wire = s.wire := rfl
@[simp] theorem State.passCycle_results (s : State) :
    (s.passCycle).results = s.results := rfl
@[simp] theorem State.passCycle_host (s : State) :
    (s.passCycle).host = s.host := rfl

@[simp] theorem State.selecting_constructed (sel : Selector) (s : State) :
    (s.selecting sel).constructed = true := rfl
@[simp] theorem State.selecting_outCapacity (sel : Selector) (s : State) :
    (s.selecting sel).outCapacity = s.outCapacity := rfl
@[simp] theorem State.selecting_position (sel : Selector) (s : State) :
    (s.selecting sel).position = s.position := rfl
@[simp] theorem State.selecting_activity (sel : Selector) (s : State) :
    (s.selecting sel).activity = .invocation [selByte sel] 0 [] := rfl
@[simp] theorem State.selecting_pb (sel : Selector) (s : State) :
    (s.selecting sel).pb = s.pb := rfl
@[simp] theorem State.selecting_wait (sel : Selector) (s : State) :
    (s.selecting sel).wait = s.wait := rfl
@[simp] theorem State.selecting_wire (sel : Selector) (s : State) :
    (s.selecting sel).wire = s.wire := rfl
@[simp] theorem State.selecting_results (sel : Selector) (s : State) :
    (s.selecting sel).results = s.results := rfl
@[simp] theorem State.selecting_host (sel : Selector) (s : State) :
    (s.selecting sel).host = s.host := rfl
@[simp] theorem State.selecting_idle (sel : Selector) (s : State) :
    (s.selecting sel).st.idle = selS sel := rfl
@[simp] theorem State.selecting_fault (sel : Selector) (s : State) :
    (s.selecting sel).st.fault = false := rfl

@[simp] theorem EncoderState.setSums_idle (st : EncoderState) (acc : Byte × Byte) :
    (st.setSums acc).idle = st.idle := rfl
@[simp] theorem EncoderState.setSums_remaining (st : EncoderState) (acc : Byte × Byte) :
    (st.setSums acc).remaining = st.remaining := rfl
@[simp] theorem EncoderState.setSums_sum1 (st : EncoderState) (acc : Byte × Byte) :
    (st.setSums acc).sum1 = acc.1 := rfl
@[simp] theorem EncoderState.setSums_sum2 (st : EncoderState) (acc : Byte × Byte) :
    (st.setSums acc).sum2 = acc.2 := rfl
@[simp] theorem EncoderState.setSums_fault (st : EncoderState) (acc : Byte × Byte) :
    (st.setSums acc).fault = st.fault := rfl

end Sys2Proof.Machine
end

