-- ==== Sys2Proof/Laws/Ops.lean ====
section
/-! SUPPORT. What the shared operations can do, each said once. -/

namespace Sys2Proof.Machine

/-- Every meaning is `perform` on its operation. -/
theorem exec_eq_perform (i : Instr) (s : State) : exec i s = perform i (operation i) s := by
  cases i <;> rfl

/-- 10_state.md R16 items 1 to 4, as arithmetic. -/
theorem EncoderState.wf_iff (st : EncoderState) :
    st.wf = true ↔ (st.idle = true → st.remaining = 0#8) ∧ (st.idle = false → 1 ≤ st.remaining.toNat)
      ∧ st.sum1.toNat ≤ 254 ∧ st.sum2.toNat ≤ 254 ∧ st.sumsPossible = true := by
  cases h : st.idle <;> simp [EncoderState.wf, h, and_assoc]

theorem fits_iff (cap : Option Nat) (used needed : Nat) :
    fits cap used needed = true ↔ ∀ c, cap = some c → used + needed ≤ c := by
  cases cap <;> simp [fits]

@[simp] theorem selByte_packSelector (s l z : Bool) (b : Byte) : selByte (packSelector s l z b) = b := by
  apply BitVec.eq_of_getLsbD_eq
  intro k hk
  have h8 : k ≠ 8 := by omega
  have h9 : k ≠ 9 := by omega
  have h10 : k ≠ 10 := by omega
  simp [selByte, packSelector, BitVec.getLsbD_cons, hk, h8, h9, h10]

@[simp] theorem selZ_packSelector (s l z : Bool) (b : Byte) : selZ (packSelector s l z b) = z := by
  simp [selZ, packSelector, BitVec.getElem_cons]

@[simp] theorem selL_packSelector (s l z : Bool) (b : Byte) : selL (packSelector s l z b) = l := by
  simp [selL, packSelector, BitVec.getElem_cons]

@[simp] theorem selS_packSelector (s l z : Bool) (b : Byte) : selS (packSelector s l z b) = s := by
  simp [selS, packSelector, BitVec.getElem_cons]

/-- A selector word determines its four fields. -/
theorem packSelector_inj {s l z s' l' z' : Bool} {b b' : Byte} :
    packSelector s l z b = packSelector s' l' z' b' ↔ s = s' ∧ l = l' ∧ z = z' ∧ b = b' := by
  constructor
  · intro h
    exact ⟨by simpa using congrArg selS h, by simpa using congrArg selL h,
      by simpa using congrArg selZ h, by simpa using congrArg selByte h⟩
  · rintro ⟨rfl, rfl, rfl, rfl⟩
    rfl

/-- The selector that R57 builds is the word of the operation that R58 names. -/
theorem selector_eq_encode (st : EncoderState) (b : Byte) : selector st b = encode (selected st b) := by
  by_cases hi : st.idle = true
  · by_cases hb : b = 0#8 <;> simp [selector, selected, flagS, flagL, flagZ, encode, packSelector_inj, hi, hb]
  · by_cases hr : st.remaining = 1#8 <;>
      simp [selector, selected, flagS, flagL, flagZ, encode, packSelector_inj, hi, hr]

theorem selected_wf (st : EncoderState) (b : Byte) : (selected st b).wf = true := by
  unfold selected
  split
  · split
    · rfl
    · simpa [Instr.wf] using ‹¬b = 0#8›
  · split <;> simp [Instr.wf]

/-- Two operations with one selector word are one operation. -/
theorem encode_injective {i j : Instr} (h : encode i = encode j) : i = j := by
  cases i <;> cases j <;> simp_all [encode, packSelector_inj]

/-- WHAT AN OPERATION CAN DO, forwards: where Step is defined and the byte selects the operation, its burst and state
are committed. -/
theorem perform_selected {s : State} {b : Byte} (op : EncoderState → EncoderState × List Item)
    (hc : s.constructed = true) (hw : s.st.wf = true) (hf : s.st.fault = false)
    (hb : s.nextByte = some b) :
    perform (selected s.st b) op s = .next (s.commit (op s.st).1 (serialize (op s.st).2)) := by
  simp [perform, selected_wf, hc, hw, hf, hb, selector_eq_encode]

/-- WHAT AN OPERATION CAN DO, backwards: a next state comes only from the operation that the state and the byte select. -/
theorem perform_next {i : Instr} {op : EncoderState → EncoderState × List Item} {s t : State}
    (h : perform i op s = .next t) :
    s.constructed = true ∧ s.st.wf = true ∧ s.st.fault = false
      ∧ (∃ b, s.nextByte = some b ∧ i = selected s.st b)
      ∧ t = s.commit (op s.st).1 (serialize (op s.st).2) := by
  unfold perform at h
  split at h
  · cases h
  split at h
  · cases h
  split at h
  · cases h
  split at h
  · cases h
  split at h
  · cases h
  rename_i hc hw hf _ b hb
  split at h
  · rename_i hsel
    rw [selector_eq_encode] at hsel
    injection h with h
    exact ⟨by simpa using hc, by simpa using hw, by simpa using hf,
      ⟨b, hb, (encode_injective hsel).symm⟩, h.symm⟩
  · cases h

end Sys2Proof.Machine
end

