-- ==== Sys2Proof/Laws/PerInstr.lean ====
section
/-! SUPPORT. Statements for all operations, one lemma for each constructor. `OneRow`: the operation's selector word matches
exactly one row of the operation map (30_encoding.md R58 and R59). -/

namespace Sys2Proof.Laws.OneRow

open Sys2Proof Sys2Proof.Machine

/-- The row of the operation map that an operation belongs to. -/
def rowName : Instr → OpName
  | .idleFill => .idleFill
  | .frameStart _ => .frameStart
  | .payload _ _ => .payload
  | .payloadLast _ _ => .payloadLast

/-- The operation's selector word is accepted by its own row and by no other. -/
def Statement (i : Instr) : Prop :=
  ∀ r ∈ opRows, r.accepts (encode i) = true ↔ r.name = rowName i

theorem idleFill : Statement .idleFill := by
  simp [Statement, opRows, rowName, encode]
  decide

theorem frameStart (b : Byte) : Statement (.frameStart b) := by
  revert b
  simp only [Statement, opRows, rowName, encode]
  decide

theorem payload (z : Bool) (b : Byte) : Statement (.payload z b) := by
  revert z b
  simp only [Statement, opRows, rowName, encode]
  decide

theorem payloadLast (z : Bool) (b : Byte) : Statement (.payloadLast z b) := by
  revert z b
  simp only [Statement, opRows, rowName, encode]
  decide

end Sys2Proof.Laws.OneRow
end

