-- ==== Sys2Proof/Laws/Step.lean ====
section
/-! SUPPORT. What a step does in each situation, so that no proof unfolds `plan`. -/

namespace Sys2Proof.Machine

theorem step_waiting {s : State} (ha : s.activity = .waiting) (hh : s.host = []) : step s = .next s := by
  simp [step, Plan.run, plan, ha, hh]

theorem step_reset {s : State} {more : List HostAction} (ha : s.activity = .waiting)
    (hh : s.host = .reset :: more) : step s = .next s.dropAction.resetEncoder := by
  simp [step, Plan.run, plan, ha, hh]

theorem step_call {s : State} {c : List Byte} {more : List HostAction} (ha : s.activity = .waiting)
    (hh : s.host = .call c :: more) (hc : s.constructed = true) :
    step s = .next (s.dropAction.beginCall c) := by
  simp [step, Plan.run, plan, ha, hh, hc]

theorem step_edge {s : State} {e : Edge} {more : List HostAction} (ha : s.activity = .waiting)
    (hh : s.host = .edge e :: more) :
    step s = (clockEdge e s.dropAction).run := by
  simp [step, plan, ha, hh]

theorem step_return {s : State} {k : Nat} {outc : List Sym} (ha : s.activity = .invocation [] k outc)
    (hf : s.st.fault = false) : step s = .next (s.returnOk outc) := by
  simp [step, Plan.run, plan, ha, hf]

@[simp] theorem runSteps_zero (s : State) : runSteps 0 s = .next s := rfl

/-- One step of a run. -/
theorem runSteps_succ {s t : State} (n : Nat) (h : step s = .next t) :
    runSteps (n + 1) s = runSteps n t := by
  simp [runSteps, h]

/-- A byte of an open invocation runs the operation that the state and the byte select. -/
theorem fetch_selected {s : State} {b : Byte} (hb : s.nextByte = some b)
    (hd : decode (selector s.st b) = .op (selected s.st b)) :
    fetch s = .operate (selected s.st b) s := by
  simp [fetch, hb, hd]

theorem step_invocation_cons {s : State} {b : Byte} {rest : List Byte} {k : Nat} {outc : List Sym}
    (ha : s.activity = .invocation (b :: rest) k outc) : step s = (fetch s).run := by
  simp [step, plan, ha]

@[simp] theorem stepEncoders_nil (encoders : List State) : stepEncoders [] encoders = encoders := rfl

@[simp] theorem stepEncoders_cons (k : Nat) (schedule : List Nat) (encoders : List State) :
    stepEncoders (k :: schedule) encoders = stepEncoders schedule (stepEncoder k encoders) := rfl

/-- A word from outside that is no operation is refused by name. -/
theorem step_placedWord_rejected {s : State} {w : Nat} {e : DecodeError} (ha : s.activity = .placedWord w)
    (hd : decodeNat w = .rejected e) : step s = .refused (.noSuchOperation e) := by
  simp [step, Plan.run, plan, planWord, ha, hd]

/-- A word from outside that is an operation is left to `exec`. -/
theorem step_placedWord_op {s : State} {w : Nat} {i : Instr} (ha : s.activity = .placedWord w)
    (hd : decodeNat w = .op i) : step s = exec i s := by
  simp [step, Plan.run, plan, planWord, ha, hd]

end Sys2Proof.Machine
end

