-- ==== Sys2Proof/Tests/Slice0.lean ====
section
/-! SUPPORT. Tests: vectors of spec/95_test_vectors.md (each names its own), words written out from the encodings, ill-formed
terms, and for each statement with hypotheses a state and operands that meet them. -/

namespace Sys2Proof.Tests

open Sys2Proof Sys2Proof.Machine

/-! ### Small states -/

/-- An encoder state in a frame. -/
def inFrame (remaining s1 s2 : Byte) : EncoderState :=
  { idle := false, remaining := remaining, sum1 := s1, sum2 := s2, fault := false }

/-- An encoder state in IDLE. -/
def inIdle (s1 s2 : Byte) : EncoderState :=
  { idle := true, remaining := 0#8, sum1 := s1, sum2 := s2, fault := false }

/-- An encoder inside an invocation that has appended nothing yet. -/
def calling (st : EncoderState) (bytes : List Byte) : State :=
  { State.reset with st := st, activity := .invocation bytes 0 [] }

/-- An encoder inside an invocation that has appended `used` symbols, under a capacity, at byte `k`. -/
def callingWith (st : EncoderState) (cap used k : Nat) (bytes : List Byte) : State :=
  { State.reset with
    st := st
    outCapacity := some cap
    activity := .invocation bytes k (List.replicate used 0x00#8) }

/-- A waiting encoder with host actions queued. -/
def asked (st : EncoderState) (acts : List HostAction) : State :=
  { State.reset with st := st, host := acts }

/-- A waiting encoder with a pending burst. -/
def sending (pb : List Sym) (acts : List HostAction) : State :=
  { State.reset with pb := pb, host := acts }

/-- An encoder that was never constructed. -/
def unbuilt (acts : List HostAction) : State :=
  { State.reset with constructed := false, host := acts }

/-- A clock edge that offers a byte to a ready consumer, with latency 0. -/
def offer (b : Byte) : Edge := { rst := false, inValid := true, inData := b, outReady := true, lag := 0 }

/-- A clock edge with no byte, and a consumer that does not take a symbol. -/
def stall : Edge := { rst := false, inValid := false, inData := 0#8, outReady := false, lag := 0 }

/-- A clock edge with `rst = 1`. -/
def rstEdge : Edge := { rst := true, inValid := true, inData := 0#8, outReady := true, lag := 0 }

/-- What a test looks at in an outcome: nothing, unless it is a next state. -/
def look (f : State → α) : Host.Outcome State Fault Refusal → Option α
  | .next t => some (f t)
  | .fault _ => none
  | .refused _ => none

/-- The refusal of an outcome. -/
def refusalOf : Host.Outcome State Fault Refusal → Option Refusal
  | .refused r => some r
  | .next _ => none
  | .fault _ => none

/-- The state and the symbols appended in the open invocation. -/
def stateAndOut (t : State) : EncoderState × List Sym :=
  match t.activity with
  | .invocation _ _ outc => (t.st, outc)
  | .waiting => (t.st, [])
  | .transfer _ _ => (t.st, [])
  | .placedWord _ => (t.st, [])

/-! ### Well-formed terms -/

/-- A length byte of 0x00 is ill-formed (30_encoding.md R60). -/
theorem test_wf_refuses_zero_length : (Instr.frameStart 0x00#8).wf = false := by decide

/-- `Z = 0` with `b = 0`, and `Z = 1` with `b ≠ 0`, are ill-formed (30_encoding.md R60). -/
theorem test_wf_refuses_payload_z :
    (Instr.payload false 0x00#8).wf = false ∧ (Instr.payload true 0x41#8).wf = false := by decide

theorem test_wf_refuses_payloadLast_z :
    (Instr.payloadLast false 0x00#8).wf = false ∧ (Instr.payloadLast true 0x41#8).wf = false := by decide

theorem test_wf_accepts :
    Instr.idleFill.wf = true ∧ (Instr.frameStart 0x03#8).wf = true
      ∧ (Instr.payload true 0x00#8).wf = true ∧ (Instr.payloadLast false 0x41#8).wf = true := by decide

/-! ### Decoding words written out from the rows of 30_encoding.md R58 -/

theorem test_decode_idleFill : decode 0b10100000000#11 = .op .idleFill := by decide
theorem test_decode_frameStart : decode 0b10011111111#11 = .op (.frameStart 0xFF#8) := by decide
theorem test_decode_payload : decode 0b00010000000#11 = .op (.payload false 0x80#8) := by decide
theorem test_decode_payloadLast : decode 0b01011111110#11 = .op (.payloadLast false 0xFE#8) := by decide

/-- 0x600 to 0x7FF, and `Z = 1` with a byte in IDLE, are no operation (30_encoding.md R60). -/
theorem test_decode_rejects :
    decode 0x600#11 = .rejected .lastWhileIdle ∧ decode 0x7FF#11 = .rejected .lastWhileIdle
      ∧ decode 0x501#11 = .rejected .zeroFlagOnNonzeroByte ∧ decodeNat 0x800 = .rejected .notASelector := by decide

/-- No selector word is accepted by two rows (30_encoding.md R59). -/
theorem test_rows_disjoint :
    opRows.Pairwise (fun r r' => (r.pattern ^^^ r'.pattern) &&& (r.mask &&& r'.mask) ≠ 0#11) := by decide

/-- A word of each row, placed on the reset state, is the operation that the next step runs. -/
theorem test_placed_words_run :
    look (fun t => t.st) (step (State.reset.withFetchWord 16 0x500)) = some (inIdle 0#8 0#8)
      ∧ look (fun t => t.st) (step (State.reset.withFetchWord 16 0x403)) = some (inFrame 3#8 3#8 3#8)
      ∧ look (fun t => t.st) (step (State.reset.withFetchWord 16 0x041)) = some (inFrame 1#8 0x41#8 0x41#8)
      ∧ look (fun t => t.st) (step (State.reset.withFetchWord 16 0x241)) = some (inIdle 0x41#8 0x41#8) := by decide

/-- The words of 30_encoding.md R60, placed, are refused by the next step: a `Z` that does not repeat `b = 0x00`, a length
byte of 0x00, `S = 1` with `L = 1`, and a word of more than eleven bits. -/
theorem test_placed_words_refused :
    refusalOf (step (State.reset.withFetchWord 16 0x501)) = some (.noSuchOperation .zeroFlagOnNonzeroByte)
      ∧ refusalOf (step (State.reset.withFetchWord 16 0x400)) = some .unreachableSelector
      ∧ refusalOf (step (State.reset.withFetchWord 16 0x000)) = some .unreachableSelector
      ∧ refusalOf (step (State.reset.withFetchWord 16 0x341)) = some .unreachableSelector
      ∧ refusalOf (step (State.reset.withFetchWord 16 0x600)) = some (.noSuchOperation .lastWhileIdle)
      ∧ refusalOf (step (State.reset.withFetchWord 16 0x900)) = some (.noSuchOperation .notASelector) := by decide

/-- 10_state.md R16 item 4: with 255 owed the sums are (0, 0), and with 254 owed they are equal; with 253 owed any two are
those of some frame. -/
theorem test_wf_item4 :
    (inFrame 255#8 0#8 0#8).wf = true ∧ (inFrame 255#8 1#8 0#8).wf = false
      ∧ (inFrame 254#8 7#8 7#8).wf = true ∧ (inFrame 254#8 7#8 8#8).wf = false
      ∧ (inFrame 253#8 7#8 200#8).wf = true := by decide

/-! ### One step: the vectors V1 to V12 -/

/-- V2. -/
theorem test_idleFill_V2 :
    look stateAndOut (exec .idleFill (calling (inIdle 201#8 151#8) [0x00#8]))
      = some (inIdle 201#8 151#8, List.replicate 8 0xFF#8) := by decide

/-- V4: the sums of the closed frame are reset before the fold. -/
theorem test_frameStart_V4 :
    look (fun t => t.st) (exec (.frameStart 0x01#8) (calling (inIdle 201#8 151#8) [0x01#8]))
      = some (inFrame 1#8 1#8 1#8) := by decide

/-- V5: `LEN = 255` leaves the sums at (0, 0). -/
theorem test_frameStart_V5 :
    look (fun t => t.st) (exec (.frameStart 0xFF#8) (calling (inIdle 0#8 0#8) [0xFF#8]))
      = some (inFrame 255#8 0#8 0#8) := by decide

/-- V7: a 0x00 payload byte is data, and `sum2` takes `sum1`. -/
theorem test_payload_V7 :
    look stateAndOut (exec (.payload true 0x00#8) (calling (inFrame 2#8 68#8 71#8) [0x00#8]))
      = some (inFrame 1#8 68#8 139#8, List.replicate 8 0x00#8) := by decide

/-- V12: the counter at its largest value. -/
theorem test_payload_V12 :
    look (fun t => t.st) (exec (.payload false 0x07#8) (calling (inFrame 255#8 0#8 0#8) [0x07#8]))
      = some (inFrame 254#8 7#8 7#8) := by decide

/-- V9: the source's example ends with C9, 97 and the gap (P2's symbols). -/
theorem test_payloadLast_V9 :
    look stateAndOut (exec (.payloadLast false 0x43#8) (calling (inFrame 1#8 134#8 205#8) [0x43#8]))
      = some (inIdle 201#8 151#8,
          [1, 1, 0, 0, 0, 0, 1, 0,  1, 0, 0, 1, 0, 0, 1, 1,  1, 1, 1, 0, 1, 0, 0, 1] ++ List.replicate 16 0xFF#8) := by
  decide

/-- V10: CK1 = 0x00 is sent as data. -/
theorem test_payloadLast_V10 :
    look stateAndOut (exec (.payloadLast false 0xFE#8) (calling (inFrame 1#8 1#8 1#8) [0xFE#8]))
      = some (inIdle 0#8 1#8,
          [0, 1, 1, 1, 1, 1, 1, 1,  0, 0, 0, 0, 0, 0, 0, 0,  1, 0, 0, 0, 0, 0, 0, 0] ++ List.replicate 16 0xFF#8) := by
  decide

/-! ### The parts -/

/-- 95_test_vectors.md section 2: Data(C9) and Data(97). -/
theorem test_serData : serData 0xC9#8 = [1, 0, 0, 1, 0, 0, 1, 1] ∧ serData 0x97#8 = [1, 1, 1, 0, 1, 0, 0, 1] := by decide

/-- 95_test_vectors.md section 3: 0xFF leaves `sum1`, and both sums wrap. -/
theorem test_ckFold :
    ckFold (254#8, 254#8) 0xFF#8 = (254#8, 253#8) ∧ ckFold (254#8, 254#8) 0x01#8 = (0#8, 254#8)
      ∧ ckFold (100#8, 200#8) 0x00#8 = (100#8, 45#8) ∧ ckFold (1#8, 1#8) 0xFE#8 = (0#8, 1#8) := by decide

/-- E2: the checksum bytes of `[3, 0x41, 0x42, 0x43]` by the closed form. -/
theorem test_closed_form_E2 :
    weightedSum [0x03#8, 0x41#8, 0x42#8, 0x43#8] = 406
      ∧ closedCk1 [0x03#8, 0x41#8, 0x42#8, 0x43#8] = 0xC9#8
      ∧ closedCk2 [0x03#8, 0x41#8, 0x42#8, 0x43#8] = 0x97#8 := by decide

/-- B5: the closing byte does not fit in 143, and the state keeps its values but for the fault bit. -/
theorem test_exhausted_B5 :
    look (fun t => (t.st, t.results)) (step (callingWith (inFrame 1#8 134#8 205#8) 143 104 3 [0x43#8]))
      = some ({ inFrame 1#8 134#8 205#8 with fault := true },
          [.fault .outputExhausted (.exhausted 3 40 104 143)]) := by decide

/-- B4: with a capacity of 144 it fits. -/
theorem test_fits_B4 :
    look (fun t => t.st) (step (callingWith (inFrame 1#8 134#8 205#8) 144 104 3 [0x43#8]))
      = some (inIdle 201#8 151#8) := by decide

/-- B9: the fault is sticky. -/
theorem test_sticky_B9 :
    look (fun t => t.results) (step (asked { inIdle 0#8 0#8 with fault := true } [.call [0x00#8]]))
      = some [.fault .outputExhausted .sticky] := by decide

/-- P7: a byte accepted at the port loads its burst and keeps it for the next edges. -/
theorem test_port_accept_P7 :
    look (fun t => (t.pb, t.wire, t.st)) (step (asked (inIdle 0#8 0#8) [.edge (offer 0x00#8)]))
      = some (List.replicate 8 0xFF#8, [], inIdle 0#8 0#8) := by decide

/-- 95_test_vectors.md section 5, port level: `rst` discards the rest of the burst. -/
theorem test_port_rst_discards :
    look (fun t => (t.pb, t.wire, t.st)) (step (sending [0xFF#8, 0xFF#8] [.edge rstEdge]))
      = some ([], [], inIdle 0#8 0#8) := by decide

/-- A latency of two cycles passes before the block offers a symbol (43_output_buffer.md R127). -/
theorem test_port_latency :
    look (fun t => (t.wait, t.wire)) (step { sending [0x01#8] [.edge (offer 0x00#8)] with wait := 2 }) = some (1, []) := by
  decide

/-- An encoder that was never constructed is refused (93_implementation_defined.md U5). -/
theorem test_unconstructed_refused :
    refusalOf (step (unbuilt [.call [0x00#8]])) = some .notConstructed := by decide

/-! ### States and operands that meet the hypotheses of the statements -/

theorem meets_ResetLeavesStatedValues :
    ∃ (s : State) (more : List HostAction) (e : Edge),
      s.activity = .waiting ∧ s.host = .reset :: more ∧ e.rst = false :=
  ⟨asked (inFrame 3#8 3#8 3#8) [.reset], [], stall, rfl, rfl, rfl⟩

theorem meets_ResetLeavesStatedValues_edge :
    ∃ (s : State) (more : List HostAction) (e : Edge),
      s.activity = .waiting ∧ s.host = .edge e :: more ∧ e.rst = true :=
  ⟨asked (inFrame 3#8 3#8 3#8) [.edge rstEdge], [], rstEdge, rfl, rfl, rfl⟩

theorem meets_ResetWritesOnlyTheEncoder :
    ∃ (s : State) (more : List HostAction),
      s.activity = .waiting ∧ s.host = .reset :: more ∧ s.pb ≠ [] ∧ s.st.fault = true :=
  ⟨{ sending [0x01#8] [.reset] with st := { inIdle 0#8 0#8 with fault := true } }, [], rfl, rfl, by decide, rfl⟩

theorem meets_PortResetDiscardsBurst :
    ∃ (s : State) (e : Edge) (more : List HostAction),
      s.activity = .waiting ∧ s.host = .edge e :: more ∧ e.rst = true ∧ s.pb ≠ [] :=
  ⟨sending [0xFF#8] [.edge rstEdge], rstEdge, [], rfl, rfl, rfl, by decide⟩

theorem meets_ResetAbandonsOpenFrame :
    ∃ (s : State) (v : Byte) (bs : List Byte) (more : List HostAction),
      s.activity = .waiting ∧ v ≠ 0#8 ∧ s.host = .reset :: .call (v :: bs) :: more
      ∧ room s.outCapacity 0 88 ∧ s.st.idle = false :=
  ⟨asked (inFrame 3#8 3#8 3#8) [.reset, .call [0x01#8]], 0x01#8, [], [], rfl, by decide, rfl, by simp [room,
    asked, State.reset], rfl⟩

theorem meets_ResetAbandonsOpenFrame_port :
    ∃ (s : State) (v : Byte) (more : List HostAction) (e e' : Edge),
      s.activity = .waiting ∧ v ≠ 0#8 ∧ s.host = .edge e :: .edge e' :: more ∧ e.rst = true
      ∧ e'.rst = false ∧ e'.inValid = true ∧ e'.inData = v ∧ s.st.idle = false :=
  ⟨asked (inFrame 3#8 3#8 3#8) [.edge rstEdge, .edge (offer 0xFF#8)], 0xFF#8, [], rstEdge, offer 0xFF#8,
    rfl, by decide, rfl, rfl, rfl, rfl, rfl, rfl⟩

theorem meets_UnconstructedIsRefused :
    ∃ (s : State) (c : List Byte) (more : List HostAction) (i : Instr),
      s.constructed = false ∧ s.activity = .waiting ∧ s.host = .call c :: more ∧ i.wf = true :=
  ⟨unbuilt [.call [0x00#8]], [0x00#8], [], .idleFill, rfl, rfl, rfl, rfl⟩

theorem meets_UnconstructedIsRefused_edge :
    ∃ (s : State) (e : Edge) (more : List HostAction),
      s.constructed = false ∧ s.activity = .waiting ∧ s.host = .edge e :: more ∧ e.rst = false :=
  ⟨unbuilt [.edge stall], stall, [], rfl, rfl, rfl, rfl⟩

theorem meets_SelectorSelectsOneOperation_idle :
    ∃ (st : EncoderState) (b b' : Byte), st.wf = true ∧ st.idle = true ∧ b = 0x00#8 ∧ b' ≠ 0x00#8 :=
  ⟨inIdle 254#8 254#8, 0x00#8, 0x01#8, by decide⟩

theorem meets_SelectorSelectsOneOperation_frame :
    ∃ (st st' : EncoderState), st.wf = true ∧ st.idle = false ∧ 2 ≤ st.remaining.toNat
      ∧ st'.wf = true ∧ st'.idle = false ∧ st'.remaining = 1#8 :=
  ⟨inFrame 2#8 0#8 0#8, inFrame 1#8 0#8 0#8, by decide⟩

/-- The clause about placed words: no state and byte give the word 0x900. -/
theorem meets_UnreachableSelectorsAreRefused_placed :
    ∃ nbits w : Nat, ∀ st b, (selector st b).toNat ≠ w % 2 ^ nbits :=
  ⟨16, 0x900, fun st b => by have := (selector st b).isLt; omega⟩

theorem meets_UnreachableSelectorsAreRefused :
    ∃ sel sel' : Selector, sel.getLsbD 10 = true ∧ sel.getLsbD 9 = true
      ∧ ¬(sel'.getLsbD 8 = true ↔ selByte sel' = 0x00#8) :=
  ⟨0x600#11, 0x000#11, by decide⟩

theorem meets_EncodeInvertsDecode :
    ∃ (sel : Selector) (i : Instr), decode sel = .op i :=
  ⟨0x500#11, .idleFill, by decide⟩

theorem meets_StepRunsDecodedOperation :
    ∃ (s : State) (b : Byte) (rest : List Byte) (k : Nat) (outc : List Sym) (i : Instr),
      s.activity = .invocation (b :: rest) k outc ∧ decode (selector s.st b) = .op i :=
  ⟨calling (inIdle 0#8 0#8) [0x03#8], 0x03#8, [], 0, [], .frameStart 0x03#8, rfl, by decide⟩

theorem meets_PortStepRunsDecodedOperation :
    ∃ (s : State) (e : Edge) (more : List HostAction) (i : Instr),
      s.constructed = true ∧ s.st.fault = false ∧ s.pb = [] ∧ s.activity = .waiting
      ∧ s.host = .edge e :: more ∧ e.rst = false ∧ e.inValid = true ∧ decode (selector s.st e.inData) = .op i :=
  ⟨asked (inIdle 0#8 0#8) [.edge (offer 0x03#8)], offer 0x03#8, [], .frameStart 0x03#8,
    rfl, rfl, rfl, rfl, rfl, rfl, rfl, by decide⟩

theorem meets_IdleFillCompletes :
    ∃ (s : State) (rest : List Byte) (k : Nat) (outc : List Sym),
      s.able ∧ s.activity = .invocation (0x00#8 :: rest) k outc ∧ s.st.idle = true
      ∧ room s.outCapacity outc.length 8 :=
  ⟨callingWith (inIdle 0#8 0#8) 16 8 1 [0x00#8], [], 1, List.replicate 8 0x00#8, ⟨rfl, by decide, rfl⟩, rfl, rfl,
    by simp [room, callingWith]⟩

theorem meets_FrameStartCompletes :
    ∃ (s : State) (v : Byte) (rest : List Byte) (k : Nat) (outc : List Sym),
      s.able ∧ s.activity = .invocation (v :: rest) k outc ∧ s.st.idle = true ∧ v ≠ 0x00#8
      ∧ room s.outCapacity outc.length 88 :=
  ⟨callingWith (inIdle 201#8 151#8) 88 0 0 [0xFF#8], 0xFF#8, [], 0, [], ⟨rfl, by decide, rfl⟩, rfl, rfl, by decide,
    by simp [room, callingWith]⟩

theorem meets_PayloadCompletes :
    ∃ (s : State) (v : Byte) (rest : List Byte) (k : Nat) (outc : List Sym),
      s.able ∧ s.activity = .invocation (v :: rest) k outc ∧ s.st.idle = false
      ∧ 2 ≤ s.st.remaining.toNat ∧ room s.outCapacity outc.length 8 :=
  ⟨callingWith (inFrame 2#8 254#8 254#8) 8 0 0 [0x00#8], 0x00#8, [], 0, [], ⟨rfl, by decide, rfl⟩, rfl, rfl,
    by decide,
    by simp [room, callingWith]⟩

theorem meets_PayloadLastCompletes :
    ∃ (s : State) (v : Byte) (rest : List Byte) (k : Nat) (outc : List Sym),
      s.able ∧ s.activity = .invocation (v :: rest) k outc ∧ s.st.idle = false
      ∧ s.st.remaining = 1#8 ∧ room s.outCapacity outc.length 40 :=
  ⟨callingWith (inFrame 1#8 254#8 254#8) 40 0 0 [0xFF#8], 0xFF#8, [], 0, [], ⟨rfl, by decide, rfl⟩, rfl, rfl, rfl,
    by simp [room, callingWith]⟩

theorem meets_InputTransferLoadsBurst :
    ∃ (s : State) (e : Edge) (more : List HostAction),
      s.able ∧ s.pb = [] ∧ s.activity = .waiting ∧ s.host = .edge e :: more ∧ e.rst = false
      ∧ e.inValid = true :=
  ⟨asked (inFrame 1#8 1#8 1#8) [.edge (offer 0xFE#8)], offer 0xFE#8, [], ⟨rfl, by decide, rfl⟩, rfl, rfl,
    rfl, rfl, rfl⟩

/-- The four cases of the transition table, each with its hypotheses met. -/
theorem meets_TransitionsFollowTheTable :
    ∀ p ∈ [(inIdle 0#8 0#8, 0x00#8), (inIdle 0#8 0#8, 0x01#8), (inFrame 2#8 0#8 0#8, 0x00#8), (inFrame 1#8 0#8 0#8, 0x00#8)],
      (calling p.1 [p.2]).able ∧ (calling p.1 [p.2]).activity = .invocation [p.2] 0 []
        ∧ room (calling p.1 [p.2]).outCapacity 0 (burstSize (selected p.1 p.2)) := by
  intro p hp
  refine ⟨⟨rfl, ?_, ?_⟩, rfl, by simp [room, calling, State.reset]⟩
  · revert p; decide
  · revert p; decide

theorem meets_OperationsAreRefusedWhereNotSelected_state :
    ∃ (s : State) (i : Instr), s.constructed = true ∧ i.wf = true ∧ s.st.idle = false ∧ s.st.remaining = 0#8 :=
  ⟨calling (inFrame 0#8 0#8 0#8) [0x01#8], .payload false 0x01#8, rfl, rfl, rfl, rfl⟩

/-- The clause of R16 item 4: 255 payload bytes are owed, so the length byte 255 alone has been folded, to (0, 0). -/
theorem meets_OperationsAreRefusedWhereNotSelected_item4 :
    ∃ (s : State) (i : Instr), s.constructed = true ∧ i.wf = true ∧ s.st.idle = false
      ∧ ∀ (v : Byte) (body : List Byte), body.length < v.toNat →
          s.st.remaining = BitVec.ofNat 8 (v.toNat - body.length) → foldAll (v :: body) ≠ (s.st.sum1, s.st.sum2) := by
  refine ⟨calling (inFrame 255#8 1#8 0#8) [0x01#8], .payload false 0x01#8, rfl, rfl, rfl, ?_⟩
  intro v body hl hr
  have h : 255 = v.toNat - body.length := by
    have := congrArg BitVec.toNat hr
    simpa [calling, inFrame, Nat.mod_eq_of_lt (show v.toNat - body.length < 256 by omega)] using this
  have hv : v = 255#8 := by
    apply BitVec.eq_of_toNat_eq
    have := v.isLt
    simp
    omega
  obtain rfl : body = [] := List.length_eq_zero_iff.1 (by have := v.isLt; omega)
  subst hv
  decide

theorem meets_OperationsAreRefusedWhereNotSelected_byte :
    ∃ (s : State) (i : Instr) (b : Byte), s.able ∧ i.wf = true ∧ s.nextByte = some b ∧ i ≠ selected s.st b :=
  ⟨calling (inFrame 1#8 0#8 0#8) [0x01#8], .payload false 0x01#8, 0x01#8, ⟨rfl, by decide, rfl⟩, rfl, rfl, by decide⟩

theorem meets_OperationsLeaveTheRestUnchanged : ∃ (s t : State) (i : Instr), exec i s = .next t :=
  ⟨calling (inIdle 0#8 0#8) [0x00#8], _, .idleFill, rfl⟩

/-- A next state that takes the fault, and one at an input transfer, for the frame's other clauses. -/
theorem meets_OperationsLeaveTheRestUnchanged_clauses :
    (∃ (s t : State) (i : Instr), exec i s = .next t ∧ t.st.fault = true)
      ∧ ∃ (s t : State) (i : Instr) (data : Byte) (lag : Nat), exec i s = .next t ∧ s.activity = .transfer data lag :=
  ⟨⟨callingWith (inIdle 0#8 0#8) 7 0 0 [0x00#8], _, .idleFill, rfl, rfl⟩,
    ⟨{ asked (inIdle 0#8 0#8) [] with activity := .transfer 0x00#8 3 }, _, .idleFill, 0x00#8, 3, rfl, rfl⟩⟩

theorem meets_OperationsWriteOnlyTheirFields :
    (∃ (s t : State), exec .idleFill s = .next t) ∧ (∃ (s t : State) (z : Bool) (v : Byte), exec (.payload z v) s = .next t)
      ∧ ∃ (s t : State) (i : Instr), exec i s = .next t ∧ t.st.fault = true :=
  ⟨⟨calling (inIdle 0#8 0#8) [0x00#8], _, rfl⟩, ⟨calling (inFrame 2#8 0#8 0#8) [0x00#8], _, true, 0x00#8, rfl⟩,
    ⟨callingWith (inFrame 1#8 0#8 0#8) 39 0 0 [0x00#8], _, .payloadLast true 0x00#8, rfl, rfl⟩⟩

theorem meets_StepKeepsTheInvariant : ∃ s t : State, s.Inv ∧ step s = .next t :=
  ⟨asked (inIdle 0#8 0#8) [.call [0x01#8]], _,
    ⟨rfl, by decide, by decide, by simp [asked, State.reset], by simp [asked, State.reset], trivial,
      by simp [asked, State.reset]⟩, rfl⟩

theorem meets_EveryStepIsDefined : ∃ s : State, s.Inv :=
  ⟨calling (inFrame 1#8 0#8 0#8) [0x01#8],
    ⟨rfl, by decide, by decide, by simp [calling, State.reset], by simp [calling, State.reset],
      ⟨rfl, ⟨rfl, by simp⟩, by simp [room, calling, State.reset]⟩, by simp [calling, State.reset]⟩⟩

theorem meets_EncoderHoldsStateWhileNothingHappens : ∃ s : State, s.activity = .waiting ∧ s.host = [] :=
  ⟨asked (inFrame 5#8 5#8 5#8) [], rfl, rfl⟩

theorem meets_SerializerEmitsGroupsOfEight : ∃ (items : List Item) (k : Nat) (item : Item), items[k]? = some item :=
  ⟨[.idle, .data 0x03#8], 1, .data 0x03#8, rfl⟩

theorem meets_OnlyTheThreeCodesAreProduced :
    ∃ (items : List Item) (x : Sym), x ∈ serialize items :=
  ⟨[.idle], 0xFF#8, by decide⟩

theorem meets_ReaderRecoversTheItems : ∃ items items' : List Item, serialize items = serialize items' :=
  ⟨[.idle], [.idle], rfl⟩

theorem meets_DeferredReductionAgrees : ∃ xs : List Byte, xs.length ≤ 256 := ⟨[0x03#8, 0x41#8], by decide⟩

theorem meets_SumsAreFoldsOfTheOpenFrame :
    ∃ (st : EncoderState) (v : Byte) (body : List Byte), st.idle = true ∧ v ≠ 0x00#8 ∧ body.length < v.toNat :=
  ⟨inIdle 201#8 151#8, 0x03#8, [0x41#8, 0x42#8], by decide⟩

/-- The clause about the states with a meaning, at its two boundary values of `remaining`. -/
theorem meets_SumsAreFoldsOfTheOpenFrame_states :
    ∃ st st' : EncoderState, st.idle = false ∧ st.wf = true ∧ st.remaining = 255#8
      ∧ st'.idle = false ∧ st'.wf = false ∧ st'.remaining = 254#8 :=
  ⟨inFrame 255#8 0#8 0#8, inFrame 254#8 7#8 8#8, by decide⟩

theorem meets_OutputIgnoresEarlierFrames :
    ∃ st1 st2 : EncoderState, st1.idle = true ∧ st2.idle = true ∧ st1 ≠ st2 :=
  ⟨inIdle 201#8 151#8, inIdle 0#8 0#8, by decide⟩

theorem meets_FrameBytesGiveTheFrameItems :
    ∃ (st : EncoderState) (v : Byte) (body : List Byte), st.idle = true ∧ v ≠ 0x00#8 ∧ body.length = v.toNat :=
  ⟨inIdle 201#8 151#8, 0x01#8, [0xFE#8], by decide⟩

theorem meets_InvocationSendsOneWholeFrame :
    ∃ (s : State) (v : Byte) (body : List Byte) (more : List HostAction),
      s.able ∧ s.activity = .waiting ∧ s.st.idle = true ∧ v ≠ 0x00#8 ∧ body.length = v.toNat
      ∧ s.host = .call (v :: body) :: more ∧ room s.outCapacity 0 (8 * (v.toNat + 15)) :=
  ⟨asked (inIdle 0#8 0#8) [.call [0x01#8, 0xFE#8]], 0x01#8, [0xFE#8], [], ⟨rfl, by decide, rfl⟩, rfl, rfl, by decide,
    rfl, rfl, by simp [room, asked, State.reset]⟩

theorem meets_ZeroBytesInIdleGiveIdleSymbols :
    ∃ (s : State) (n : Nat) (more : List HostAction), s.able ∧ s.activity = .waiting ∧ s.st.idle = true
      ∧ s.host = .call (List.replicate n 0x00#8) :: more ∧ room s.outCapacity 0 (8 * n) :=
  ⟨asked (inIdle 0#8 0#8) [.call [0x00#8, 0x00#8, 0x00#8]], 3, [], ⟨rfl, by decide, rfl⟩, rfl, rfl, rfl,
    by simp [room, asked, State.reset]⟩

theorem meets_OutputIsAppendOnly :
    ∃ (s t : State) (rest rest' : List Byte) (k k' : Nat) (outc outc' : List Sym),
      step s = .next t ∧ s.activity = .invocation rest k outc
      ∧ t.activity = .invocation rest' k' outc' :=
  ⟨callingWith (inIdle 0#8 0#8) 24 8 1 [0x00#8, 0x00#8], _, _, _, _, _, _, _, rfl, rfl, rfl⟩

theorem meets_CallRefinesEncodeChunk :
    ∃ (s : State) (c : List Byte) (more : List HostAction),
      s.constructed = true ∧ s.st.wf = true ∧ s.activity = .waiting ∧ s.host = .call c :: more
      ∧ s.st.fault = true :=
  ⟨asked { inIdle 0#8 0#8 with fault := true } [.call [0x00#8]], [0x00#8], [], rfl, by decide, rfl, rfl, rfl⟩

/-- The case without the fault. -/
theorem meets_CallRefinesEncodeChunk_able :
    ∃ (s : State) (c : List Byte) (more : List HostAction),
      s.constructed = true ∧ s.st.wf = true ∧ s.activity = .waiting ∧ s.host = .call c :: more
      ∧ s.st.fault = false ∧ c ≠ [] :=
  ⟨asked (inFrame 2#8 5#8 9#8) [.call [0x00#8, 0xFF#8]], [0x00#8, 0xFF#8], [], rfl, by decide, rfl, rfl, rfl, by decide⟩

theorem meets_OkChunkIsTheJoinedBursts :
    ∃ (cap : Option Nat) (st st' : EncoderState) (c : List Byte) (outc : List Sym),
      encodeChunk cap st c = (st', .ok outc) :=
  ⟨some 16, inIdle 0#8 0#8, inIdle 0#8 0#8, [0x00#8, 0x00#8], List.replicate 16 0xFF#8, by decide⟩

theorem meets_ChunkingDoesNotChangeTheOutput :
    ∃ (st : EncoderState) (chunks : List (List Byte)) (c : Nat), st.fault = false
      ∧ noFault (encodeChunks (some c) st chunks).2 ∧ noFault [(encodeChunk (some c) st chunks.flatten).2] := by
  refine ⟨inIdle 0#8 0#8, [[0x00#8], [0x00#8]], 16, rfl, ?_, ?_⟩
  · intro n i
    rw [show (encodeChunks (some 16) (inIdle 0#8 0#8) [[0x00#8], [0x00#8]]).2
      = [.ok (List.replicate 8 0xFF#8), .ok (List.replicate 8 0xFF#8)] by decide]
    simp
  · intro n i
    rw [show (encodeChunk (some 16) (inIdle 0#8 0#8) [[0x00#8], [0x00#8]].flatten).2
      = .ok (List.replicate 16 0xFF#8) by decide]
    simp

theorem meets_StatedCapacityIsEnough :
    ∃ (st : EncoderState) (c : List Byte) (cap : Nat), st.fault = false ∧ 64 * c.length + 24 * (c.length % 2) ≤ cap :=
  ⟨inIdle 0#8 0#8, [0x01#8, 0x02#8, 0x03#8], 216, by decide⟩

theorem meets_StatedCapacityIsEnough_short : ∃ n cap : Nat, cap < 64 * n + 24 * (n % 2) := ⟨1, 87, by decide⟩

theorem meets_EmptyChunkReturnsNothing :
    ∃ (s : State) (more : List HostAction),
      s.constructed = true ∧ s.st.fault = false ∧ s.activity = .waiting ∧ s.host = .call [] :: more :=
  ⟨asked (inFrame 1#8 1#8 1#8) [.call []], [], rfl, rfl, rfl, rfl⟩

theorem meets_ReturnGivesAllAndClosesNothing :
    ∃ (s : State) (k : Nat) (outc : List Sym),
      s.activity = .invocation [] k outc ∧ s.st.fault = false ∧ s.st.idle = false :=
  ⟨calling (inFrame 1#8 1#8 1#8) [], 0, [], rfl, rfl, rfl⟩

/-- Each of the four operations can meet the hypotheses, one symbol short of its burst. -/
theorem meets_ExhaustionTakesTheFault :
    ∀ p ∈ [(inIdle 0#8 0#8, 0x00#8, 7), (inIdle 0#8 0#8, 0x01#8, 87), (inFrame 2#8 0#8 0#8, 0x00#8, 7),
        (inFrame 1#8 0#8 0#8, 0x00#8, 39)],
      (callingWith p.1 p.2.2 0 0 [p.2.1]).able
        ∧ (callingWith p.1 p.2.2 0 0 [p.2.1]).activity = .invocation [p.2.1] 0 []
        ∧ (callingWith p.1 p.2.2 0 0 [p.2.1]).outCapacity = some p.2.2
        ∧ p.2.2 < 0 + burstSize (selected p.1 p.2.1) := by
  intro p hp
  refine ⟨⟨rfl, ?_, ?_⟩, rfl, rfl, ?_⟩ <;> (revert p; decide)

theorem meets_FaultIsSticky :
    ∃ (s : State) (c : List Byte) (more : List HostAction),
      s.constructed = true ∧ s.st.fault = true ∧ s.activity = .waiting ∧ s.host = .call c :: more :=
  ⟨asked { inIdle 0#8 0#8 with fault := true } [.call [0x00#8]], [0x00#8], [], rfl, rfl, rfl, rfl⟩

/-- The clause about a run with a faulted invocation, in a state that has been reset since. -/
theorem meets_FaultIsSticky_results :
    ∃ (s : State) (n : ExceptionName) (info : FaultInfo), .fault n info ∈ s.results ∧ s.final = true :=
  ⟨{ asked (inIdle 0#8 0#8) [] with results := [.fault .outputExhausted .sticky] }, .outputExhausted, .sticky,
    by decide, by decide⟩

/-- The end of a run that did not fault has its output. -/
theorem test_runOutput :
    ({ asked (inFrame 1#8 1#8 1#8) [] with results := [.ok [0x00#8], .ok [0x01#8]] } : State).runOutput
      = some [0x00#8, 0x01#8] := by decide

theorem meets_OnlyResetClearsTheFault : ∃ (s t : State), step s = .next t ∧ s.st.fault = true ∧ t.st.fault = false :=
  ⟨asked { inIdle 0#8 0#8 with fault := true } [.reset], _, rfl, rfl, rfl⟩

theorem meets_OnlyExhaustionSetsTheFault :
    ∃ (s t : State), s.activityGood ∧ step s = .next t ∧ s.st.fault = false ∧ t.st.fault = true :=
  ⟨callingWith (inIdle 0#8 0#8) 7 0 0 [0x00#8], _,
    ⟨rfl, ⟨rfl, by simp⟩, by simp [room]⟩, rfl, rfl, rfl⟩

theorem meets_OutputTransferSendsTheFirstSymbol :
    ∃ (s : State) (e : Edge) (more : List HostAction) (x : Sym) (xs : List Sym),
      s.constructed = true ∧ s.activity = .waiting ∧ s.host = .edge e :: more ∧ e.rst = false
      ∧ s.pb = x :: xs ∧ s.wait = 0 ∧ e.outReady = true :=
  ⟨sending [0x01#8, 0x00#8] [.edge (offer 0x00#8)], offer 0x00#8, [], 0x01#8, [0x00#8], rfl, rfl, rfl, rfl,
    rfl, rfl, rfl⟩

theorem meets_StalledOutputLosesNothing :
    ∃ (es : List Edge) (s : State) (more : List HostAction), s.constructed = true ∧ s.pb ≠ [] ∧ s.edgesAhead es more
      ∧ (∀ e ∈ es, e.rst = false ∧ e.outReady = false) ∧ s.outValid stall = true :=
  ⟨[stall, stall], sending [0x01#8] [.edge stall, .edge stall], [], rfl, by decide, ⟨rfl, rfl⟩,
    by simp [stall], by decide⟩

theorem meets_StateChangesOnlyAtInputTransfers :
    ∃ (s t : State) (e : Edge) (more : List HostAction),
      s.activity = .waiting ∧ s.host = .edge e :: more ∧ e.rst = false ∧ step s = .next t
      ∧ s.inTransfer e = false ∧ s.pb ≠ [] :=
  ⟨sending [0x01#8] [.edge (offer 0x00#8)], _, offer 0x00#8, [], rfl, rfl, rfl, rfl, rfl, by decide⟩

theorem meets_PortSendsWhatTheTransactionLevelSends :
    ∃ (es : List Edge) (s : State) (more : List HostAction),
      s.able ∧ s.edgesAhead es more ∧ (∀ e ∈ es, e.rst = false) ∧ acceptedBytes es s = [0x00#8] :=
  ⟨[offer 0x00#8, offer 0x01#8], asked (inIdle 0#8 0#8) [.edge (offer 0x00#8), .edge (offer 0x01#8)], [],
    ⟨rfl, by decide, rfl⟩, ⟨rfl, rfl⟩, by simp [offer], by decide⟩

theorem meets_ReadyConsumerDrainsTheBurst :
    ∃ (syms : List Sym) (es : List Edge) (s : State) (more : List HostAction),
      s.constructed = true ∧ s.pb = syms ∧ s.wait = 0 ∧ s.edgesAhead es more
      ∧ es.length = syms.length ∧ ∀ e ∈ es, e.rst = false ∧ e.outReady = true ∧ e.lag = 0 :=
  ⟨[0x01#8, 0xFF#8], [offer 0x00#8, offer 0x00#8], sending [0x01#8, 0xFF#8] [.edge (offer 0x00#8),
    .edge (offer 0x00#8)], [],
    rfl, rfl, rfl, ⟨rfl, rfl⟩, rfl, by simp [offer]⟩

/-- Two encoders with a call each, and steps that interleave. -/
theorem meets_EncodersDoNotReachEachOther :
    ∃ (encoders : List State) (schedule : List Nat) (j : Nat) (s : State) (c : List Byte),
      encoders[j]? = some s ∧ s.constructed = true ∧ s.st.wf = true ∧ s.activity = .waiting ∧ s.host = [.call c]
      ∧ c.length + 2 ≤ schedule.count j :=
  ⟨[asked (inIdle 0#8 0#8) [.call [0x03#8]], asked (inFrame 1#8 1#8 1#8) [.call [0xFE#8]]], [0, 1, 1, 0, 0, 1], 1,
    asked (inFrame 1#8 1#8 1#8) [.call [0xFE#8]], [0xFE#8], rfl, rfl, by decide, rfl, rfl, by decide⟩

theorem meets_EncodersDoNotReachEachOther_still :
    ∃ (encoders : List State) (schedule : List Nat) (j : Nat) (s : State), encoders[j]? = some s ∧ j ∉ schedule
      ∧ schedule ≠ [] :=
  ⟨[asked (inIdle 0#8 0#8) [.call [0x03#8]], State.reset], [0, 0], 1, State.reset, rfl, by decide, by decide⟩

end Sys2Proof.Tests
end

/-! Family 10_state.md: the sums of an open frame, where an operation is refused, which fields of `st` an operation
writes, and what a reset leaves. -/

namespace Sys2Proof.Machine

/-! ### The sums of the bytes folded so far -/

theorem foldl_ckFold_le {acc : Byte × Byte} (bytes : List Byte)
    (hacc : acc.1.toNat ≤ 254 ∧ acc.2.toNat ≤ 254) :
    (bytes.foldl ckFold acc).1.toNat ≤ 254 ∧ (bytes.foldl ckFold acc).2.toNat ≤ 254 := by
  induction bytes generalizing acc with
  | nil => exact hacc
  | cons b bytes ih => exact ih (ckFold_le acc b)

/-- Whatever bytes have been folded, the sums are reduced (10_state.md R13). -/
theorem foldAll_le (bytes : List Byte) :
    (foldAll bytes).1.toNat ≤ 254 ∧ (foldAll bytes).2.toNat ≤ 254 :=
  foldl_ckFold_le bytes (by decide)

theorem foldAll_one_toNat (v : Byte) :
    (foldAll [v]).1.toNat = v.toNat % 255 ∧ (foldAll [v]).2.toNat = v.toNat % 255 := by
  simp [foldAll, ckFold, ckReset, addMod255_toNat]

theorem foldAll_two_toNat (v x : Byte) :
    (foldAll [v, x]).1.toNat = (v.toNat + x.toNat) % 255
      ∧ (foldAll [v, x]).2.toNat = (2 * v.toNat + x.toNat) % 255 := by
  simp only [foldAll, List.foldl, ckFold, ckReset, addMod255_toNat, BitVec.toNat_ofNat]
  omega

theorem foldAll_three_toNat (v x y : Byte) :
    (foldAll [v, x, y]).1.toNat = (v.toNat + x.toNat + y.toNat) % 255
      ∧ (foldAll [v, x, y]).2.toNat = (3 * v.toNat + 2 * x.toNat + y.toNat) % 255 := by
  simp only [foldAll, List.foldl, ckFold, ckReset, addMod255_toNat, BitVec.toNat_ofNat]
  omega

/-- An accumulator equals the pair of two registers where the values agree. -/
theorem sums_eq_of_toNat {acc : Byte × Byte} {a c : Byte} (h1 : acc.1.toNat = a.toNat)
    (h2 : acc.2.toNat = c.toNat) : acc = (a, c) :=
  Prod.ext (BitVec.eq_of_toNat_eq h1) (BitVec.eq_of_toNat_eq h2)

/-- After any length byte two payload bytes can give any two reduced sums `(a, c)`: the sums are `v + x + y` and
`3v + 2x + y` modulo 255, which `x = c - a - 2v` and `y = 2a + v - c` solve. -/
theorem exists_payload_pair_folding_to (v a c : Byte) (ha : a.toNat ≤ 254) (hc : c.toNat ≤ 254) :
    ∃ x y : Byte, foldAll [v, x, y] = (a, c) := by
  have hv := v.isLt
  obtain ⟨x, hx⟩ : ∃ x : Byte, x.toNat = (c.toNat + 1020 - a.toNat - 2 * v.toNat) % 255 :=
    ⟨BitVec.ofNatLT _ (by omega), BitVec.toNat_ofNatLT ..⟩
  obtain ⟨y, hy⟩ : ∃ y : Byte, y.toNat = (2 * a.toNat + v.toNat + 255 - c.toNat) % 255 :=
    ⟨BitVec.ofNatLT _ (by omega), BitVec.toNat_ofNatLT ..⟩
  obtain ⟨h1, h2⟩ := foldAll_three_toNat v x y
  exact ⟨x, y, sums_eq_of_toNat (by omega) (by omega)⟩

/-! ### 10_state.md R16 item 4 -/

/-- What R16 item 4 asks inside a frame, at the two counts where it asks anything. -/
theorem EncoderState.sumsPossible_iff {st : EncoderState} (hi : st.idle = false) :
    st.sumsPossible = true ↔
      (st.remaining = 255#8 → st.sum1 = 0#8 ∧ st.sum2 = 0#8) ∧ (st.remaining = 254#8 → st.sum1 = st.sum2) := by
  by_cases h255 : st.remaining = 255#8 <;> by_cases h254 : st.remaining = 254#8 <;>
    simp_all [EncoderState.sumsPossible]

/-- Some length byte and payload so far, with no byte of it closing the frame, leave `st`. -/
def EncoderState.reachedInFrame (st : EncoderState) : Prop :=
  ∃ (v : Byte) (body : List Byte), body.length < v.toNat
    ∧ st.remaining = BitVec.ofNat 8 (v.toNat - body.length) ∧ foldAll (v :: body) = (st.sum1, st.sum2)

theorem EncoderState.reachedInFrame_of_wf {st : EncoderState} (hi : st.idle = false) (hwf : st.wf = true) :
    st.reachedInFrame := by
  obtain ⟨-, hpos, h1, h2, hsums⟩ := st.wf_iff.1 hwf
  obtain ⟨h255, h254⟩ := (EncoderState.sumsPossible_iff hi).1 hsums
  have hpos := hpos hi
  by_cases hr255 : st.remaining = 255#8
  · obtain ⟨hs1, hs2⟩ := h255 hr255
    exact ⟨255#8, [], by decide, hr255, by rw [hs1, hs2]; decide⟩
  by_cases hr254 : st.remaining = 254#8
  · obtain ⟨hf1, hf2⟩ := foldAll_two_toNat 255#8 st.sum1
    have hs := congrArg BitVec.toNat (h254 hr254)
    exact ⟨255#8, [st.sum1], by simp, hr254, sums_eq_of_toNat (by bv_omega) (by bv_omega)⟩
  · have hlen : (st.remaining + 2#8).toNat = st.remaining.toNat + 2 := by bv_omega
    obtain ⟨x, y, hxy⟩ := exists_payload_pair_folding_to (st.remaining + 2#8) st.sum1 st.sum2 h1 h2
    exact ⟨st.remaining + 2#8, [x, y], by simp [hlen]; omega, by simp [hlen], hxy⟩

/-- With 255 bytes owed only the length byte 255 has been folded; with 254 owed, 254 alone or 255 and one byte. -/
theorem EncoderState.sumsPossible_of_folds {st : EncoderState} {v : Byte} {body : List Byte} (hi : st.idle = false)
    (hrem : st.remaining.toNat = v.toNat - body.length) (hsums : foldAll (v :: body) = (st.sum1, st.sum2)) :
    st.sumsPossible = true := by
  have hv := v.isLt
  rw [EncoderState.sumsPossible_iff hi]
  match body with
  | [] =>
    obtain ⟨h1, h2⟩ := foldAll_one_toNat v
    simp only [hsums, List.length_nil] at h1 h2 hrem
    exact ⟨fun h => ⟨by bv_omega, by bv_omega⟩, fun h => by bv_omega⟩
  | [b] =>
    obtain ⟨h1, h2⟩ := foldAll_two_toNat v b
    simp only [hsums, List.length_singleton] at h1 h2 hrem
    exact ⟨fun h => by bv_omega, fun h => by bv_omega⟩
  | _ :: _ :: rest =>
    simp only [List.length_cons] at hrem
    exact ⟨fun h => by bv_omega, fun h => by bv_omega⟩

theorem EncoderState.wf_of_reachedInFrame {st : EncoderState} (hi : st.idle = false) (h : st.reachedInFrame) :
    st.wf = true := by
  obtain ⟨v, body, hlen, hr, hsums⟩ := h
  have hrem : st.remaining.toNat = v.toNat - body.length := by
    rw [hr, BitVec.toNat_ofNat]
    omega
  obtain ⟨h1, h2⟩ : st.sum1.toNat ≤ 254 ∧ st.sum2.toNat ≤ 254 := by
    simpa only [hsums] using foldAll_le (v :: body)
  exact st.wf_iff.2 ⟨by simp [hi], fun _ => by omega, h1, h2, EncoderState.sumsPossible_of_folds hi hrem hsums⟩

/-! ### The bytes of an open frame -/

theorem encodeBytes_cons_fst (st : EncoderState) (b : Byte) (bs : List Byte) :
    (encodeBytes st (b :: bs)).1 = (encodeBytes (encodeByte st b).1 bs).1 := rfl

theorem encodeByte_frameStart {st : EncoderState} {v : Byte} (hi : st.idle = true) (hv : v ≠ 0#8) :
    encodeByte st v = ((opFrameStart v st).1, serialize (opFrameStart v st).2) := by
  simp [encodeByte, selected, operation, hi, hv]

theorem encodeByte_payload {st : EncoderState} (b : Byte) (hi : st.idle = false) (hr : st.remaining ≠ 1#8) :
    encodeByte st b = ((opPayload b st).1, serialize (opPayload b st).2) := by
  simp [encodeByte, selected, operation, hi, hr]

/-- Bytes that do not close an open frame are folded into the sums and count `remaining` down; nothing else changes. -/
theorem encodeBytes_inFrame_fst {st : EncoderState} (body : List Byte) (hi : st.idle = false)
    (hlen : body.length < st.remaining.toNat) :
    (encodeBytes st body).1 =
      { st.setSums (body.foldl ckFold st.sums) with
        remaining := BitVec.ofNat 8 (st.remaining.toNat - body.length) } := by
  induction body generalizing st with
  | nil => simp [encodeBytes, EncoderState.setSums, EncoderState.sums]
  | cons b body ih =>
    rw [List.length_cons] at hlen
    have hne : st.remaining ≠ 1#8 := fun h => by simp [h] at hlen
    have hsub : (st.remaining - 1#8).toNat = st.remaining.toNat - 1 := by bv_omega
    have hrest : st.remaining.toNat - 1 - body.length = st.remaining.toNat - (body.length + 1) := by omega
    have hlen' : body.length < (opPayload b st).1.remaining.toNat := by
      simp only [opPayload, hsub]
      omega
    rw [encodeBytes_cons_fst, encodeByte_payload b hi hne, ih (st := (opPayload b st).1) hi hlen']
    simp [opPayload, EncoderState.setSums, EncoderState.sums, hsub, hrest]

/-- Settles O36: the frame's bytes by induction on the payload, and R16 item 4 by solving for two payload bytes. -/
theorem sumsAreFoldsOfTheOpenFrame : Obligations.SumsAreFoldsOfTheOpenFrame := by
  unfold Obligations.SumsAreFoldsOfTheOpenFrame
  refine ⟨fun st v body hi hv hlen => ?_, fun st hi =>
    ⟨EncoderState.reachedInFrame_of_wf hi, EncoderState.wf_of_reachedInFrame hi⟩⟩
  rw [encodeBytes_cons_fst, encodeByte_frameStart hi hv]
  exact encodeBytes_inFrame_fst body rfl hlen

/-! ### Refusals -/

/-- A well-formed operation is refused in a state outside 10_state.md R16 items 1 to 4. -/
theorem exec_illFormedState {s : State} {i : Instr} (hc : s.constructed = true) (hi : i.wf = true)
    (hw : s.st.wf = false) : exec i s = .refused .illFormedState := by
  simp [exec_eq_perform, perform, hc, hi, hw]

/-- Where Step is defined, an operation that the next byte does not select is refused. -/
theorem exec_notSelected {s : State} {i : Instr} {b : Byte} (hs : s.able) (hi : i.wf = true)
    (hb : s.nextByte = some b) (hne : i ≠ selected s.st b) : exec i s = .refused .notSelected := by
  obtain ⟨hc, hw, hf⟩ := hs
  have hsel : encode (selected s.st b) ≠ encode i := fun h => hne (encode_injective h).symm
  simp [exec_eq_perform, perform, hc, hi, hw, hf, hb, selector_eq_encode, hsel]

/-- Settles O20: each clause of the ill-formed state contradicts one item of R16. -/
theorem operationsAreRefusedWhereNotSelected : Obligations.OperationsAreRefusedWhereNotSelected := by
  unfold Obligations.OperationsAreRefusedWhereNotSelected
  intro s i hc hi
  refine ⟨fun hbad => exec_illFormedState hc hi ?_, fun b hs hb hne => exec_notSelected hs hi hb hne⟩
  by_contra hwf
  rw [Bool.not_eq_false] at hwf
  obtain ⟨hidle, hframe, h1, h2, -⟩ := s.st.wf_iff.1 hwf
  rcases hbad with ⟨hst, hr⟩ | ⟨hst, hr⟩ | h | h | ⟨hst, hnone⟩
  · exact hr (hidle hst)
  · simpa [hr] using hframe hst
  · simp [h] at h1
  · simp [h] at h2
  · obtain ⟨v, body, hlen, hr, hsums⟩ := EncoderState.reachedInFrame_of_wf hst hwf
    exact hnone v body hlen hr hsums

/-! ### Which fields of `st` an operation writes -/

@[simp] theorem operation_fault (i : Instr) (st : EncoderState) : (operation i st).1.fault = st.fault := by
  cases i <;> rfl

/-- Committing a byte's new state writes it, or takes the exception (40_frame_state_machine.md R74). -/
theorem State.commit_st {s : State} {b : Byte} (st' : EncoderState) (syms : List Sym) (hb : s.nextByte = some b) :
    (s.commit st' syms).st = st' ∨ (s.commit st' syms).st = { s.st with fault := true } := by
  cases ha : s.activity with
  | waiting => simp [State.nextByte, ha] at hb
  | placedWord w => simp [State.nextByte, ha] at hb
  | transfer data lag => exact .inl (by simp [State.commit, ha])
  | invocation rest k outc =>
    cases hfit : fits s.outCapacity outc.length syms.length with
    | true => exact .inl (by simp [State.commit, ha, hfit])
    | false => exact .inr (by simp [State.commit, ha, hfit])

/-- An operation that answers a next state starts without the fault, and leaves its new state or the fault. -/
theorem exec_next_st {s t : State} {i : Instr} (h : exec i s = .next t) :
    s.st.fault = false ∧ (t.st = (operation i s.st).1 ∨ t.st = { s.st with fault := true }) := by
  rw [exec_eq_perform] at h
  obtain ⟨-, -, hf, ⟨b, hb, -⟩, rfl⟩ := perform_next h
  exact ⟨hf, State.commit_st _ _ hb⟩

/-- Settles O22: the new state of IDLE_FILL is `st`, that of PAYLOAD keeps `idle`, and the fault writes one bit. -/
theorem operationsWriteOnlyTheirFields : Obligations.OperationsWriteOnlyTheirFields := by
  unfold Obligations.OperationsWriteOnlyTheirFields
  refine ⟨fun s t h => ?_, fun s t z v h => ?_, fun s t i h hfault => ?_⟩
  · obtain ⟨-, hst | hst⟩ := exec_next_st h <;> simp [hst, operation, opIdleFill]
  · obtain ⟨-, hst | hst⟩ := exec_next_st h <;> simp [hst, operation, opPayload]
  · obtain ⟨hf, hst | hst⟩ := exec_next_st h
    · simp [hst, hf] at hfault
    · simp [hst]

/-! ### Reset -/

/-- An edge with `rst = 1` is a reset, on an encoder that was never constructed too (70_reset_and_hazards.md R161). -/
theorem step_edge_rst {s : State} {e : Edge} {more : List HostAction} (ha : s.activity = .waiting)
    (hh : s.host = .edge e :: more) (hr : e.rst = true) : step s = .next s.dropAction.resetEncoder := by
  rw [step_edge ha hh]
  simp [clockEdge, hr, Plan.run]

/-- The host's reset and an edge with `rst = 1` take the same step. -/
theorem step_resets {s : State} {e : Edge} {more : List HostAction} (ha : s.activity = .waiting)
    (hh : s.host = .reset :: more ∨ (s.host = .edge e :: more ∧ e.rst = true)) :
    step s = .next s.dropAction.resetEncoder := by
  rcases hh with hreset | ⟨hedge, hr⟩
  · exact step_reset ha hreset
  · exact step_edge_rst ha hedge hr

/-- Settles O1: construction by unfolding, both kinds of reset by their one step. -/
theorem resetLeavesStatedValues : Obligations.ResetLeavesStatedValues := by
  unfold Obligations.ResetLeavesStatedValues
  exact ⟨⟨rfl, rfl⟩, fun s more e ha hh => ⟨_, step_resets ha hh, rfl, rfl⟩⟩

/-- Settles O2: the step is `resetEncoder` with the action taken off the queue. -/
theorem resetWritesOnlyTheEncoder : Obligations.ResetWritesOnlyTheEncoder := by
  unfold Obligations.ResetWritesOnlyTheEncoder
  intro s e more ha hh
  have htail : s.host.tail = more := by
    rcases hh with hreset | ⟨hedge, -⟩
    · rw [hreset]; rfl
    · rw [hedge]; rfl
  rw [step_resets ha hh, ← htail]
  rfl

/-- Settles O23: the reset state's `st` is one of R16, and every output of it is empty. -/
theorem resetMeetsTheInvariant : Obligations.ResetMeetsTheInvariant := by
  unfold Obligations.ResetMeetsTheInvariant
  have hst : EncoderState.reset.wf = true := by decide
  exact ⟨⟨rfl, hst, by decide, by simp [State.reset], by simp [State.reset], trivial, by simp [State.reset]⟩,
    fun _ => hst⟩

end Sys2Proof.Machine

/-! Family 20_memory.md: what a step does with a byte of an open invocation, the whole invocation as ENCODE_CHUNK, and
several encoders side by side. -/

namespace Sys2Proof.Machine

/-! ### The operation that a byte runs -/

/-- An operation's selector word is accepted by its own row of the map and by no other (30_encoding.md R59). -/
theorem accepts_encode_iff (i : Instr) : Laws.OneRow.Statement i := by
  cases i with
  | idleFill => exact Laws.OneRow.idleFill
  | frameStart b => exact Laws.OneRow.frameStart b
  | payload z b => exact Laws.OneRow.payload z b
  | payloadLast z b => exact Laws.OneRow.payloadLast z b

/-- The fields that an operation's own row reads from its selector word are its own. -/
theorem withFields_encode (i : Instr) : (Laws.OneRow.rowName i).withFields (encode i) = i := by
  cases i <;> simp [Laws.OneRow.rowName, OpName.withFields, encode]

theorem exists_row (i : Instr) : ∃ r ∈ opRows, r.name = Laws.OneRow.rowName i := by
  cases i <;> simp [Laws.OneRow.rowName, opRows]

/-- The decoder reads every operation back from its selector word. -/
theorem decode_encode (i : Instr) : decode (encode i) = .op i := by
  have hrows := accepts_encode_iff i
  cases hfind : opRows.find? (fun r => r.accepts (encode i)) with
  | none =>
    obtain ⟨r, hr, hname⟩ := exists_row i
    exact absurd ((hrows r hr).2 hname) (List.find?_eq_none.1 hfind r hr)
  | some r =>
    have hacc : r.accepts (encode i) = true := List.find?_some (p := fun r : OpRow => r.accepts (encode i)) hfind
    have hname := (hrows r (List.mem_of_find?_eq_some hfind)).1 hacc
    simp [decode, hfind, hname, withFields_encode]

/-- In an open invocation the next byte runs the operation that it selects (40_frame_state_machine.md R74). -/
theorem step_invocation_byte {s : State} {b : Byte} {rest : List Byte} {k : Nat} {outc : List Sym}
    (ha : s.activity = .invocation (b :: rest) k outc) : step s = exec (selected s.st b) s := by
  have hb : s.nextByte = some b := by simp [State.nextByte, ha]
  rw [step_invocation_cons ha, fetch_selected hb (by rw [selector_eq_encode, decode_encode])]
  rfl

/-- Forwards: in an able state the byte's new state and burst are committed. -/
theorem step_invocation_commit {s : State} {b : Byte} {rest : List Byte} {k : Nat} {outc : List Sym} (hs : s.able)
    (ha : s.activity = .invocation (b :: rest) k outc) :
    step s = .next (s.commit (encodeByte s.st b).1 (encodeByte s.st b).2) := by
  obtain ⟨hc, hw, hf⟩ := hs
  rw [step_invocation_byte ha, exec_eq_perform]
  exact perform_selected _ hc hw hf (by simp [State.nextByte, ha])

/-- Backwards: a next state comes from such a commit alone. -/
theorem step_invocation_next {s t : State} {b : Byte} {rest : List Byte} {k : Nat} {outc : List Sym}
    (ha : s.activity = .invocation (b :: rest) k outc) (h : step s = .next t) :
    t = s.commit (encodeByte s.st b).1 (encodeByte s.st b).2 := by
  rw [step_invocation_byte ha, exec_eq_perform] at h
  obtain ⟨-, -, -, -, ht⟩ := perform_next h
  exact ht

/-- A burst that fits is appended (43_output_buffer.md R116). -/
theorem State.commit_fits {s : State} {rest : List Byte} {k : Nat} {outc syms : List Sym} (st' : EncoderState)
    (ha : s.activity = .invocation rest k outc) (hfit : fits s.outCapacity outc.length syms.length = true) :
    s.commit st' syms = s.appendBurst st' syms rest.tail k outc := by
  simp [State.commit, ha, hfit]

/-- A burst that does not fit raises the exception (60_exceptions.md R143). -/
theorem State.commit_exhausted {s : State} {rest : List Byte} {k : Nat} {outc syms : List Sym} (st' : EncoderState)
    (ha : s.activity = .invocation rest k outc) (hfit : fits s.outCapacity outc.length syms.length = false) :
    s.commit st' syms = s.raiseOutputExhausted (exhaustedInfo s.outCapacity k syms.length outc.length) := by
  simp [State.commit, ha, hfit]

/-! ### The return, and `OUTC` while an invocation goes on -/

/-- Settles O49: the return step appends `OUTC` to the results and closes the invocation. -/
theorem returnGivesAllAndClosesNothing : Obligations.ReturnGivesAllAndClosesNothing := by
  unfold Obligations.ReturnGivesAllAndClosesNothing
  intro s k outc ha hf
  exact step_return ha hf

theorem serialize_length (items : List Item) : (serialize items).length = 8 * items.length := by
  induction items with
  | nil => rfl
  | cons item items ih => simp [ih]; omega

/-- The items of an operation fill its burst (43_output_buffer.md R117). -/
theorem serialize_operation_length (i : Instr) (st : EncoderState) :
    (serialize (operation i st).2).length = burstSize i := by
  rw [serialize_length]
  cases i <;> rfl

theorem burstSize_cases (i : Instr) : burstSize i = 8 ∨ burstSize i = 88 ∨ burstSize i = 40 := by
  cases i <;> simp [burstSize]

theorem encodeByte_length (st : EncoderState) (b : Byte) :
    (encodeByte st b).2.length = burstSize (selected st b) :=
  serialize_operation_length _ st

/-- The return of a faulted encoder stops the machine (notes/assumptions/9.md). -/
theorem step_return_faulted {s : State} {k : Nat} {outc : List Sym} (ha : s.activity = .invocation [] k outc)
    (hf : s.st.fault = true) : step s = .fault .outputExhausted := by
  simp [step, Plan.run, plan, ha, hf]

/-- An open invocation with no byte left does not stay open. -/
theorem waiting_of_step_invocation_nil {s t : State} {k : Nat} {outc : List Sym}
    (ha : s.activity = .invocation [] k outc) (h : step s = .next t) : t.activity = .waiting := by
  cases hf : s.st.fault with
  | true =>
    rw [step_return_faulted ha hf] at h
    cases h
  | false =>
    rw [step_return ha hf] at h
    cases h
    rfl

/-- Settles O42: a used-up chunk returns, the exception ends the invocation, so a step that leaves it open has appended
one byte's burst. -/
theorem outputIsAppendOnly : Obligations.OutputIsAppendOnly := by
  unfold Obligations.OutputIsAppendOnly
  intro s t rest rest' k k' outc outc' hstep hs ht
  cases rest with
  | nil => simp [waiting_of_step_invocation_nil hs hstep] at ht
  | cons b rest =>
    obtain rfl := step_invocation_next hs hstep
    cases hfit : fits s.outCapacity outc.length (encodeByte s.st b).2.length with
    | false => simp [State.commit_exhausted _ hs hfit] at ht
    | true =>
      simp only [State.commit_fits _ hs hfit, State.appendBurst_activity, List.tail_cons,
        Activity.invocation.injEq] at ht
      obtain ⟨rfl, rfl, rfl⟩ := ht
      refine ⟨rfl, ⟨b, rfl⟩, _, rfl, ?_⟩
      rw [encodeByte_length]
      exact burstSize_cases _

/-! ### A byte keeps the states of 10_state.md R16 -/

theorem encodeByte_idleFill {st : EncoderState} (hi : st.idle = true) :
    encodeByte st 0#8 = (st, serialize [.idle]) := by
  simp [encodeByte, selected, operation, opIdleFill, hi]

theorem encodeByte_payloadLast {st : EncoderState} (b : Byte) (hi : st.idle = false) (hr : st.remaining = 1#8) :
    encodeByte st b = ((opPayloadLast b st).1, serialize (opPayloadLast b st).2) := by
  simp [encodeByte, selected, operation, hi, hr]

@[simp] theorem encodeByte_fault (st : EncoderState) (b : Byte) : (encodeByte st b).1.fault = st.fault :=
  operation_fault _ st

/-- After one fold from `(0, 0)` both sums are the byte. -/
theorem ckFold_reset_fst_eq_snd (b : Byte) : (ckFold ckReset b).1 = (ckFold ckReset b).2 := by
  apply BitVec.eq_of_toNat_eq
  simp [ckFold, ckReset, addMod255_toNat]

/-- 10_state.md R16 in state IDLE. -/
theorem EncoderState.wf_of_idle {st : EncoderState} (hi : st.idle = true) (hr : st.remaining = 0#8)
    (h1 : st.sum1.toNat ≤ 254) (h2 : st.sum2.toNat ≤ 254) : st.wf = true :=
  st.wf_iff.2 ⟨fun _ => hr, by simp [hi], h1, h2, by simp [EncoderState.sumsPossible, hi]⟩

/-- 10_state.md R16 inside a frame, with item 4 at the two counts where it asks anything. -/
theorem EncoderState.wf_of_inFrame {st : EncoderState} (hi : st.idle = false) (hr : 1 ≤ st.remaining.toNat)
    (h1 : st.sum1.toNat ≤ 254) (h2 : st.sum2.toNat ≤ 254)
    (h255 : st.remaining = 255#8 → st.sum1 = 0#8 ∧ st.sum2 = 0#8)
    (h254 : st.remaining = 254#8 → st.sum1 = st.sum2) : st.wf = true :=
  st.wf_iff.2 ⟨by simp [hi], fun _ => hr, h1, h2, (EncoderState.sumsPossible_iff hi).2 ⟨h255, h254⟩⟩

theorem opFrameStart_wf (st : EncoderState) {v : Byte} (hv : v ≠ 0#8) : (opFrameStart v st).1.wf = true := by
  have hpos : 1 ≤ v.toNat := by bv_omega
  obtain ⟨h1, h2⟩ := ckFold_le ckReset v
  refine EncoderState.wf_of_inFrame rfl hpos h1 h2 (fun h => ?_) (fun _ => ckFold_reset_fst_eq_snd v)
  obtain rfl : v = 255#8 := h
  have hzero : ckFold ckReset 255#8 = (0#8, 0#8) := by decide
  exact Prod.ext_iff.1 hzero

/-- With 254 owed after the byte, 255 were owed before it, and both sums were 0. -/
theorem opPayload_wf {st : EncoderState} (b : Byte) (hw : st.wf = true) (hi : st.idle = false)
    (hr : st.remaining ≠ 1#8) : (opPayload b st).1.wf = true := by
  obtain ⟨-, hpos, -, -, hsums⟩ := st.wf_iff.1 hw
  obtain ⟨h255, -⟩ := (EncoderState.sumsPossible_iff hi).1 hsums
  have hpos := hpos hi
  have hrem : (opPayload b st).1.remaining = st.remaining - 1#8 := rfl
  obtain ⟨h1, h2⟩ := ckFold_le st.sums b
  refine EncoderState.wf_of_inFrame hi (by bv_omega) h1 h2 (fun h => by bv_omega) (fun h => ?_)
  obtain ⟨hs1, hs2⟩ := h255 (by bv_omega)
  have hzero : st.sums = ckReset := Prod.ext hs1 hs2
  simpa [opPayload, hzero] using ckFold_reset_fst_eq_snd b

theorem opPayloadLast_wf {st : EncoderState} (b : Byte) (hr : st.remaining = 1#8) :
    (opPayloadLast b st).1.wf = true := by
  obtain ⟨h1, h2⟩ := ckFold_le st.sums b
  exact EncoderState.wf_of_idle rfl (by simp [opPayloadLast, hr]) h1 h2

/-- Every byte leads from a state of R16 to a state of R16 (10_state.md R20). -/
theorem encodeByte_wf {st : EncoderState} (b : Byte) (hw : st.wf = true) : (encodeByte st b).1.wf = true := by
  cases hi : st.idle with
  | true =>
    by_cases hb : b = 0#8
    · rw [hb, encodeByte_idleFill hi]
      exact hw
    · rw [encodeByte_frameStart hi hb]
      exact opFrameStart_wf st hb
  | false =>
    by_cases hr : st.remaining = 1#8
    · rw [encodeByte_payloadLast b hi hr]
      exact opPayloadLast_wf b hr
    · rw [encodeByte_payload b hi hr]
      exact opPayload_wf b hw hi hr

/-! ### A whole invocation is ENCODE_CHUNK -/

/-- The encoder after an invocation that left `res.1` as `st`, returned `res.2` and read up to `position`. -/
def State.returned (position : Nat) (res : EncoderState × CallResult) (s : State) : State :=
  { s with st := res.1, position := position, activity := .waiting, results := s.results ++ [res.2] }

theorem chunkLoop_cons_fits {cap : Option Nat} {outc : List Sym} {st : EncoderState} {b : Byte} (k : Nat)
    (bs : List Byte) (hfit : fits cap outc.length (encodeByte st b).2.length = true) :
    chunkLoop cap k outc st (b :: bs)
      = chunkLoop cap (k + 1) (outc ++ (encodeByte st b).2) (encodeByte st b).1 bs := by
  simp [chunkLoop, hfit]

theorem chunkLoop_cons_exhausted {cap : Option Nat} {outc : List Sym} {st : EncoderState} {b : Byte} (k : Nat)
    (bs : List Byte) (hfit : fits cap outc.length (encodeByte st b).2.length = false) :
    chunkLoop cap k outc st (b :: bs) = ({ st with fault := true },
      .fault .outputExhausted (exhaustedInfo cap k (encodeByte st b).2.length outc.length)) := by
  simp [chunkLoop, hfit]

/-- An open invocation runs to the return of the loop of ENCODE_CHUNK (43_output_buffer.md R119) in at most one step a
byte and one to return, whatever the host does next. -/
theorem runSteps_invocation {s : State} {rest : List Byte} {k : Nat} {outc : List Sym} (hs : s.able)
    (ha : s.activity = .invocation rest k outc) :
    ∃ n p, n ≤ rest.length + 1 ∧ s.position ≤ p ∧ p ≤ s.position + rest.length
      ∧ runSteps n s = .next (s.returned p (chunkLoop s.outCapacity k outc s.st rest)) := by
  induction rest generalizing s k outc with
  | nil =>
    obtain ⟨-, -, hf⟩ := hs
    exact ⟨1, s.position, by simp, le_rfl, by simp, runSteps_succ 0 (step_return ha hf)⟩
  | cons b rest ih =>
    have hstep := step_invocation_commit hs ha
    cases hfit : fits s.outCapacity outc.length (encodeByte s.st b).2.length with
    | true =>
      rw [State.commit_fits _ ha hfit] at hstep
      obtain ⟨hc, hw, hf⟩ := hs
      obtain ⟨n, p, hn, hlo, hhi, hrun⟩ := ih
        (s := s.appendBurst (encodeByte s.st b).1 (encodeByte s.st b).2 rest k outc)
        ⟨hc, encodeByte_wf b hw, by simpa using hf⟩ rfl
      simp only [State.appendBurst_position] at hlo hhi
      refine ⟨n + 1, p, by simpa using hn, by omega, by simp; omega, ?_⟩
      rw [chunkLoop_cons_fits k rest hfit, runSteps_succ n hstep]
      exact hrun
    | false =>
      rw [State.commit_exhausted _ ha hfit] at hstep
      refine ⟨1, s.position + 1, by simp, by simp, by simp, ?_⟩
      rw [chunkLoop_cons_exhausted k rest hfit]
      exact runSteps_succ 0 hstep

/-- A call of a constructed encoder in a state of R16, faulted or not, returns ENCODE_CHUNK of its state and chunk. -/
theorem runSteps_call {s : State} {c : List Byte} {more : List HostAction} (hc : s.constructed = true)
    (hw : s.st.wf = true) (ha : s.activity = .waiting) (hh : s.host = .call c :: more) :
    ∃ n p, n ≤ c.length + 2 ∧ s.position ≤ p ∧ p ≤ s.position + c.length
      ∧ runSteps n s = .next (s.dropAction.returned p (encodeChunk s.outCapacity s.st c)) := by
  have hstep := step_call ha hh hc
  cases hf : s.st.fault with
  | true =>
    refine ⟨1, s.position, by simp, le_rfl, by simp, ?_⟩
    rw [runSteps_succ 0 hstep]
    simp [State.beginCall, State.returned, State.giveResult, encodeChunk, hf, ha]
  | false =>
    have hopen : s.dropAction.beginCall c = { s.dropAction with activity := .invocation c 0 [] } := by
      simp [State.beginCall, hf]
    rw [hopen] at hstep
    obtain ⟨n, p, hn, hlo, hhi, hrun⟩ := runSteps_invocation
      (s := { s.dropAction with activity := .invocation c 0 [] }) ⟨hc, hw, hf⟩ rfl
    refine ⟨n + 1, p, by omega, hlo, hhi, ?_⟩
    rw [runSteps_succ n hstep, hrun]
    simp [encodeChunk, hf, State.returned]

/-! ### Several encoders -/

/-- What one turn of an encoder in a list does to it: its step, or nothing where the step stops
(notes/assumptions/18.md). -/
def State.advance (s : State) : State :=
  match step s with
  | .next t => t
  | .fault _ => s
  | .refused _ => s

theorem State.advance_of_step {s t : State} (h : step s = .next t) : s.advance = t := by
  simp [State.advance, h]

theorem stepEncoder_eq_modify (k : Nat) (encoders : List State) :
    stepEncoder k encoders = encoders.modify k State.advance := rfl

/-- Of any schedule, an encoder sees its own turns and nothing else (20_memory.md R44). -/
theorem getElem?_stepEncoders (schedule : List Nat) (encoders : List State) (j : Nat) :
    (stepEncoders schedule encoders)[j]? = encoders[j]?.map (State.advance^[schedule.count j]) := by
  induction schedule generalizing encoders with
  | nil => simp
  | cons k schedule ih =>
    rw [stepEncoders_cons, ih, stepEncoder_eq_modify, List.getElem?_modify]
    by_cases hk : k = j
    · simp [hk, Function.comp_def]
    · simp [hk]

/-- Turns follow a run that does not stop. -/
theorem advance_iterate_of_runSteps {n : Nat} {s t : State} (h : runSteps n s = .next t) :
    State.advance^[n] s = t := by
  induction n generalizing s with
  | zero => simpa using h
  | succ n ih =>
    cases hstep : step s with
    | next u =>
      rw [runSteps_succ n hstep] at h
      rw [Function.iterate_succ_apply, State.advance_of_step hstep, ih h]
    | fault f => simp [runSteps, hstep] at h
    | refused r => simp [runSteps, hstep] at h

/-- Turns after the end of a run that leaves the encoder waiting with nothing to do change nothing. -/
theorem advance_iterate_of_runSteps_le {n m : Nat} {s t : State} (h : runSteps n s = .next t)
    (ha : t.activity = .waiting) (hh : t.host = []) (hnm : n ≤ m) : State.advance^[m] s = t := by
  obtain ⟨d, rfl⟩ := Nat.exists_eq_add_of_le' hnm
  rw [Function.iterate_add_apply, advance_iterate_of_runSteps h]
  exact Function.iterate_fixed (State.advance_of_step (step_waiting ha hh)) d

/-- Settles O60: an encoder sees only its own turns, enough of them complete its call, and the rest change nothing. -/
theorem encodersDoNotReachEachOther : Obligations.EncodersDoNotReachEachOther := by
  unfold Obligations.EncodersDoNotReachEachOther
  intro encoders schedule j s hj
  rw [getElem?_stepEncoders, hj]
  refine ⟨fun hmem => by simp [List.count_eq_zero_of_not_mem hmem], fun c hc hw ha hh hcount => ?_⟩
  obtain ⟨n, p, hn, -, -, hrun⟩ := runSteps_call hc hw ha hh
  have hhost : s.dropAction.host = [] := by simp [hh]
  refine ⟨_, congrArg some (advance_iterate_of_runSteps_le hrun rfl hhost (by omega)), ?_⟩
  simp [State.returned, State.dropAction, ha, hh]

end Sys2Proof.Machine

/-! Family 30_encoding.md: the selector word and its decoder, the alphabet of the serializer, and whole frames and runs
of idle bytes on the encoder and on the machine. -/

namespace Sys2Proof.Machine

/-! ### The round trips -/

/-- Settles O9: the row that accepts an operation's word is its own, and that row reads all its fields back. -/
theorem decodeInvertsEncode : Obligations.DecodeInvertsEncode :=
  decode_encode

/-- A selector word is its four fields (30_encoding.md R57). -/
theorem packSelector_fields (sel : Selector) :
    packSelector (selS sel) (selL sel) (selZ sel) (selByte sel) = sel := by
  apply BitVec.eq_of_getLsbD_eq
  intro k hk
  rw [packSelector, BitVec.getLsbD_cons, BitVec.getLsbD_cons, BitVec.getLsbD_cons]
  split_ifs with h10 h9 h8
  · rw [h10, selS]
  · rw [h9, selL]
  · rw [h8, selZ]
  · have hk8 : k < 8 := by omega
    simp [selByte, hk8]

/-- The operation that a row reads from a word that it accepts has that word: the row's mask leaves free exactly the fields
that it reads (30_encoding.md R58). -/
theorem encode_withFields {r : OpRow} {sel : Selector} (hr : r ∈ opRows) (hacc : r.accepts sel = true) :
    encode (r.name.withFields sel) = sel := by
  have hbits : sel &&& r.mask = r.pattern := by simpa [OpRow.accepts] using hacc
  have hbit (k : Nat) : (sel.getLsbD k && r.mask.getLsbD k) = r.pattern.getLsbD k := by
    rw [← hbits, BitVec.getLsbD_and]
  have hS : (selS sel && r.mask.getLsbD 10) = r.pattern.getLsbD 10 := hbit 10
  have hL : (selL sel && r.mask.getLsbD 9) = r.pattern.getLsbD 9 := hbit 9
  have hZ : (selZ sel && r.mask.getLsbD 8) = r.pattern.getLsbD 8 := hbit 8
  refine Eq.trans ?_ (packSelector_fields sel)
  simp only [opRows, List.mem_cons, List.not_mem_nil, or_false] at hr
  rcases hr with rfl | rfl | rfl | rfl
  · have hall : sel &&& BitVec.allOnes 11 = 0x500#11 := hbits
    rw [BitVec.and_allOnes] at hall
    rw [hall]
    decide
  · simp at hS hL hZ
    simp [OpName.withFields, encode, hS, hL, hZ]
  · simp at hS hL
    simp [OpName.withFields, encode, hS, hL]
  · simp at hS hL
    simp [OpName.withFields, encode, hS, hL]

/-- WHAT THE DECODER CAN ANSWER: an operation whose word this is, or the rejection of a word that no operation has. -/
theorem decode_cases (sel : Selector) :
    (∃ i, decode sel = .op i ∧ encode i = sel)
      ∨ decode sel = .rejected (if selL sel then .lastWhileIdle else .zeroFlagOnNonzeroByte) := by
  cases hfind : opRows.find? (fun r => r.accepts sel) with
  | none => exact .inr (by simp [decode, hfind])
  | some r =>
    have hacc : r.accepts sel = true := List.find?_some (p := fun r : OpRow => r.accepts sel) hfind
    exact .inl ⟨r.name.withFields sel, by simp [decode, hfind],
      encode_withFields (List.mem_of_find?_eq_some hfind) hacc⟩

theorem encode_of_decode {sel : Selector} {i : Instr} (h : decode sel = .op i) : encode i = sel := by
  obtain ⟨j, hj, hsel⟩ | hrej := decode_cases sel
  · obtain rfl : j = i := by simpa [hj] using h
    exact hsel
  · simp [hrej] at h

/-- Settles O10: the row that accepts a word fixes the fields that it does not read. -/
theorem encodeInvertsDecode : Obligations.EncodeInvertsDecode :=
  fun _ _ => encode_of_decode

/-! ### The selector of a state and a byte -/

@[simp] theorem selS_selector (st : EncoderState) (b : Byte) : selS (selector st b) = st.idle :=
  selS_packSelector ..

@[simp] theorem selL_selector (st : EncoderState) (b : Byte) : selL (selector st b) = flagL st :=
  selL_packSelector ..

@[simp] theorem selZ_selector (st : EncoderState) (b : Byte) : selZ (selector st b) = (b == 0#8) :=
  selZ_packSelector ..

@[simp] theorem selByte_selector (st : EncoderState) (b : Byte) : selByte (selector st b) = b :=
  selByte_packSelector ..

theorem flagL_iff (st : EncoderState) : flagL st = true ↔ st.idle = false ∧ st.remaining = 1#8 := by
  simp [flagL]

theorem getLsbD_selByte (sel : Selector) {k : Nat} (hk : k < 8) : (selByte sel).getLsbD k = sel.getLsbD k := by
  simp [selByte, hk]

/-- Settles O6: each bit is a field of the packed word. -/
theorem selectorFieldsFollowState : Obligations.SelectorFieldsFollowState := by
  unfold Obligations.SelectorFieldsFollowState
  intro st b
  change selS (selector st b) = _ ∧ (selL (selector st b) = true ↔ _) ∧ (selZ (selector st b) = true ↔ _) ∧ _
  refine ⟨selS_selector st b, ?_, ?_, fun k hk => ?_⟩
  · rw [selL_selector, flagL_iff]
  · simp
  · rw [← getLsbD_selByte _ hk, selByte_selector]

/-- Exactly one row accepts the word of an operation (30_encoding.md R59). -/
theorem existsUnique_row_of_encode (i : Instr) :
    ∃ r ∈ opRows, ∀ r' ∈ opRows, encode i &&& r'.mask = r'.pattern ↔ r' = r := by
  have hnames : ∀ r ∈ opRows, ∀ r' ∈ opRows, r'.name = r.name → r' = r := by decide
  obtain ⟨r, hr, hname⟩ := exists_row i
  refine ⟨r, hr, fun r' hr' => ?_⟩
  have hacc : encode i &&& r'.mask = r'.pattern ↔ r'.name = r.name := by
    rw [hname, ← accepts_encode_iff i r' hr', OpRow.accepts, beq_iff_eq]
  exact hacc.trans ⟨hnames r hr r' hr', congrArg OpRow.name⟩

theorem decode_selector (st : EncoderState) (b : Byte) : decode (selector st b) = .op (selected st b) := by
  rw [selector_eq_encode, decode_encode]

/-- Settles O7: the selector is the word of the operation that the rule's words name. -/
theorem selectorSelectsOneOperation : Obligations.SelectorSelectsOneOperation := by
  unfold Obligations.SelectorSelectsOneOperation
  intro st b _
  rw [decode_selector]
  refine ⟨by decide, ?_, fun hi hb => ?_, fun hi hb => ?_, fun hi hr => ?_, fun hi hr => ?_⟩
  · rw [selector_eq_encode]
    exact existsUnique_row_of_encode _
  · simp [selected, hi, hb]
  · simp [selected, hi, hb]
  · have hne : st.remaining ≠ 1#8 := fun h => by simp [h] at hr
    simp [selected, hi, hne]
  · simp [selected, hi, hr]

/-! ### The words that no state and byte give -/

theorem exec_unreachableSelector {i : Instr} (hi : i.wf = false) (s : State) :
    exec i s = .refused .unreachableSelector := by
  simp [exec_eq_perform, perform, hi]

/-- A well-formed operation is one that some state and byte select (30_encoding.md R60). -/
theorem exists_selector_of_wf {i : Instr} (hi : i.wf = true) : ∃ st b, selector st b = encode i := by
  have hsel : ∃ st b, selected st b = i := by
    cases i with
    | idleFill => exact ⟨EncoderState.reset, 0#8, rfl⟩
    | frameStart b =>
      have hb : b ≠ 0#8 := by simpa [Instr.wf] using hi
      exact ⟨EncoderState.reset, b, by simp [selected, EncoderState.reset, hb]⟩
    | payload z b =>
      obtain rfl : z = (b == 0#8) := by simpa [Instr.wf] using hi
      exact ⟨{ EncoderState.reset with idle := false, remaining := 2#8 }, b, by simp [selected]⟩
    | payloadLast z b =>
      obtain rfl : z = (b == 0#8) := by simpa [Instr.wf] using hi
      exact ⟨{ EncoderState.reset with idle := false, remaining := 1#8 }, b, by simp [selected]⟩
  obtain ⟨st, b, rfl⟩ := hsel
  exact ⟨st, b, selector_eq_encode st b⟩

/-- `L` requires `S = 0` (30_encoding.md R60). -/
theorem decode_lastWhileIdle {sel : Selector} (hS : selS sel = true) (hL : selL sel = true) :
    decode sel = .rejected .lastWhileIdle := by
  obtain ⟨i, -, rfl⟩ | hrej := decode_cases sel
  · cases i <;> simp [encode] at hS hL
  · simpa [hL] using hrej

/-- A word whose `Z` does not repeat `b = 0x00` is no well-formed operation's (30_encoding.md R60). -/
theorem wf_false_of_selZ {i : Instr} (hZ : ¬(selZ (encode i) = true ↔ selByte (encode i) = 0#8)) : i.wf = false := by
  by_contra hi
  obtain ⟨st, b, hsel⟩ := exists_selector_of_wf (by simpa using hi)
  simp [← hsel] at hZ

theorem decodeNat_op {w : Nat} {i : Instr} (h : decodeNat w = .op i) : (encode i).toNat = w := by
  unfold decodeNat at h
  split at h
  · rw [encode_of_decode h, BitVec.toNat_ofNat, Nat.mod_eq_of_lt ‹_›]
  · cases h

/-- A number that is no selector of a state and a byte, placed for the next step, is refused by it. -/
theorem step_placeSelector_refused {w : Nat} (hw : ∀ st b, (selector st b).toNat ≠ w) (s : State) :
    ∃ r, step (s.placeSelector w) = .refused r := by
  cases hd : decodeNat w with
  | rejected e =>
    have ha : (s.placeSelector w).activity = .placedWord w := by simp [State.placeSelector, hd]
    exact ⟨_, step_placedWord_rejected ha hd⟩
  | op i =>
    cases hi : i.wf with
    | false =>
      have ha : (s.placeSelector w).activity = .placedWord w := by simp [State.placeSelector, hd, hi]
      exact ⟨_, (step_placedWord_op ha hd).trans (exec_unreachableSelector hi _)⟩
    | true =>
      obtain ⟨st, b, hsel⟩ := exists_selector_of_wf hi
      exact absurd (hsel ▸ decodeNat_op hd) (hw st b)

/-- Settles O8: a word of R60 is the word of no well-formed operation, so it is rejected or its operation is refused. -/
theorem unreachableSelectorsAreRefused : Obligations.UnreachableSelectorsAreRefused := by
  unfold Obligations.UnreachableSelectorsAreRefused
  refine ⟨fun st b => ⟨?_, ?_⟩, fun sel hS hL => decode_lastWhileIdle hS hL, fun sel hZ => ?_,
    exec_unreachableSelector rfl, fun s nbits w hw => step_placeSelector_refused hw s⟩
  · rintro ⟨hS, hL⟩
    replace hS : st.idle = true := (selS_selector st b).symm.trans hS
    replace hL : flagL st = true := (selL_selector st b).symm.trans hL
    simp [flagL, hS] at hL
  · rw [selByte_selector]
    exact (Bool.eq_iff_iff.1 (selZ_selector st b)).trans beq_iff_eq
  · obtain ⟨i, hd, rfl⟩ | hrej := decode_cases sel
    · exact .inr ⟨i, hd, exec_unreachableSelector (wf_false_of_selZ hZ)⟩
    · exact .inl ⟨_, hrej⟩

/-- Settles O11: by evaluation of the decoder. -/
theorem sampleWordsDecodeAsTheTableSays : Obligations.SampleWordsDecodeAsTheTableSays := by
  unfold Obligations.SampleWordsDecodeAsTheTableSays
  decide

/-! ### The alphabet -/

theorem mem_serialize {x : Sym} {items : List Item} : x ∈ serialize items ↔ ∃ item ∈ items, x ∈ serItem item := by
  induction items with
  | nil => simp
  | cons item items ih => simp [ih]

/-- Settles O29: a data item gives bit symbols alone, the idle item IDLE alone. -/
theorem onlyTheThreeCodesAreProduced : Obligations.OnlyTheThreeCodesAreProduced := by
  unfold Obligations.OnlyTheThreeCodesAreProduced
  refine ⟨fun items x hx => ?_, fun b hb => ?_⟩
  · obtain ⟨item, -, hmem⟩ := mem_serialize.1 hx
    cases item with
    | data b =>
      obtain ⟨v, rfl⟩ := bitSym_of_mem_serData hmem
      cases v with
      | false => exact .inl rfl
      | true => exact .inr (.inl rfl)
    | idle => exact .inr (.inr (List.eq_of_mem_replicate hmem))
  · obtain ⟨item, hitem, hmem⟩ := mem_serialize.1 hb
    obtain rfl := List.mem_singleton.1 hitem
    obtain ⟨v, hv⟩ := bitSym_of_mem_serData hmem
    exact bitSym_ne_idle v hv.symm

/-- Settles O31: by evaluation of the serializer on the ten header bytes. -/
theorem headerSymbolsAreTheTables : Obligations.HeaderSymbolsAreTheTables := by
  unfold Obligations.HeaderSymbolsAreTheTables
  decide

/-! ### The closed form of the checksum -/

theorem addMod255_cast (a b : Byte) : ((addMod255 a b).toNat : ZMod 255) = a.toNat + b.toNat := by
  rw [addMod255_toNat, ZMod.natCast_mod, Nat.cast_add]

/-- Modulo 255, folding adds the plain sum to `sum1`, and to `sum2` the weighted sum and `sum1` once for each byte. -/
theorem foldl_ckFold_cast (bytes : List Byte) (acc : Byte × Byte) :
    ((bytes.foldl ckFold acc).1.toNat : ZMod 255) = acc.1.toNat + plainSum bytes
      ∧ ((bytes.foldl ckFold acc).2.toNat : ZMod 255)
        = acc.2.toNat + bytes.length * acc.1.toNat + weightedSum bytes := by
  induction bytes generalizing acc with
  | nil => simp [plainSum, weightedSum]
  | cons b bytes ih =>
    obtain ⟨h1, h2⟩ := ih (ckFold acc b)
    rw [List.foldl_cons, h1, h2]
    simp only [ckFold, addMod255_cast, plainSum, weightedSum, List.length_cons]
    push_cast
    constructor <;> ring

/-- A reduced byte is the residue of any number that it agrees with modulo 255. -/
theorem eq_ofNat_mod_of_cast {a : Byte} {n : Nat} (ha : a.toNat ≤ 254) (h : (a.toNat : ZMod 255) = n) :
    a = BitVec.ofNat 8 (n % 255) := by
  rw [ZMod.natCast_eq_natCast_iff'] at h
  apply BitVec.eq_of_toNat_eq
  rw [BitVec.toNat_ofNat]
  omega

/-- 42_checksum.md R103. -/
theorem foldAll_eq_closed (bytes : List Byte) : foldAll bytes = (closedCk1 bytes, closedCk2 bytes) := by
  obtain ⟨hle1, hle2⟩ := foldAll_le bytes
  obtain ⟨h1, h2⟩ := foldl_ckFold_cast bytes ckReset
  exact Prod.ext (eq_ofNat_mod_of_cast hle1 (by simpa [foldAll, ckReset] using h1))
    (eq_ofNat_mod_of_cast hle2 (by simpa [foldAll, ckReset] using h2))

/-! ### A whole frame on the encoder -/

/-- Induction over the bytes that close an open frame: the last one, or one more before bytes that close it. -/
theorem closing_induction {motive : EncoderState → List Byte → Prop}
    (last : ∀ st b, st.idle = false → st.remaining = 1#8 → motive st [b])
    (more : ∀ st b body, st.idle = false → st.remaining ≠ 1#8 → motive (opPayload b st).1 body →
      motive st (b :: body))
    {st : EncoderState} {body : List Byte} (hi : st.idle = false) (hne : body ≠ [])
    (hlen : body.length = st.remaining.toNat) : motive st body := by
  induction body generalizing st with
  | nil => exact absurd rfl hne
  | cons b body ih =>
    cases body with
    | nil => exact last st b hi (BitVec.eq_of_toNat_eq hlen.symm)
    | cons c rest =>
      simp only [List.length_cons] at hlen
      have hr : st.remaining ≠ 1#8 := fun h => by simp [h] at hlen
      have hsub : (opPayload b st).1.remaining.toNat = st.remaining.toNat - 1 := by
        change (st.remaining - 1#8).toNat = _
        bv_omega
      exact more st b (c :: rest) hi hr
        (ih (st := (opPayload b st).1) hi (List.cons_ne_nil c rest) (by simp only [List.length_cons]; omega))

theorem encodeBytes_cons (st : EncoderState) (b : Byte) (bs : List Byte) :
    encodeBytes st (b :: bs) = ((encodeBytes (encodeByte st b).1 bs).1,
      (encodeByte st b).2 ++ (encodeBytes (encodeByte st b).1 bs).2) := rfl

/-- The end of a frame with the sums `acc`: the two checksum bytes and the gap (30_encoding.md R55). -/
def trailerItems (acc : Byte × Byte) : List Item :=
  [.data (ckFinal acc).1, .data (ckFinal acc).2] ++ gapItems

/-- The closed state and the symbols of the bytes that close the open frame of `st`: the bytes, then the trailer. -/
def closingResult (st : EncoderState) (body : List Byte) : EncoderState × List Sym :=
  ({ st.setSums (body.foldl ckFold st.sums) with idle := true, remaining := 0#8 },
   serialize (body.map Item.data ++ trailerItems (body.foldl ckFold st.sums)))

theorem closingResult_singleton {st : EncoderState} (b : Byte) (hr : st.remaining = 1#8) :
    closingResult st [b] = ((opPayloadLast b st).1, serialize (opPayloadLast b st).2) := by
  simp [closingResult, opPayloadLast, hr, trailerItems]

theorem closingResult_cons (st : EncoderState) (b : Byte) (body : List Byte) :
    closingResult st (b :: body) = ((closingResult (opPayload b st).1 body).1,
      serialize (opPayload b st).2 ++ (closingResult (opPayload b st).1 body).2) := by
  simp [closingResult, opPayload, EncoderState.setSums, EncoderState.sums]

theorem encodeBytes_closing {st : EncoderState} {body : List Byte} (hi : st.idle = false) (hne : body ≠ [])
    (hlen : body.length = st.remaining.toNat) : encodeBytes st body = closingResult st body := by
  refine closing_induction (motive := fun st body => encodeBytes st body = closingResult st body)
    (fun st b hi hr => ?_) (fun st b body hi hr ih => ?_) hi hne hlen
  · rw [closingResult_singleton b hr, encodeBytes_cons, encodeByte_payloadLast b hi hr]
    simp [encodeBytes]
  · rw [closingResult_cons, encodeBytes_cons, encodeByte_payload b hi hr, ih]

theorem countStarts_closing {st : EncoderState} {body : List Byte} (hi : st.idle = false) (hne : body ≠ [])
    (hlen : body.length = st.remaining.toNat) : countStarts st body = 0 := by
  refine closing_induction (motive := fun st body => countStarts st body = 0) (fun st b hi _ => ?_)
    (fun st b body hi hr ih => ?_) hi hne hlen
  · simp [countStarts, hi]
  · simp [countStarts, hi, encodeByte_payload b hi hr, ih]

theorem countLasts_closing {st : EncoderState} {body : List Byte} (hi : st.idle = false) (hne : body ≠ [])
    (hlen : body.length = st.remaining.toNat) : countLasts st body = 1 := by
  refine closing_induction (motive := fun st body => countLasts st body = 1) (fun st b hi hr => ?_)
    (fun st b body hi hr ih => ?_) hi hne hlen
  · simp [countLasts, hi, hr]
  · simp [countLasts, hr, encodeByte_payload b hi hr, ih]

/-- The items of R55 are those of FRAME_START, of the payload and of the trailer. -/
theorem frameItems_eq (v : Byte) (body : List Byte) (st : EncoderState) :
    frameItems v body = (opFrameStart v st).2 ++ (body.map Item.data ++ trailerItems (foldAll (v :: body))) := by
  obtain ⟨h1, h2⟩ := foldAll_le (v :: body)
  rw [trailerItems, ckFinal_of_le h1 h2, foldAll_eq_closed]
  rfl

theorem payload_ne_nil {v : Byte} {body : List Byte} (hv : v ≠ 0#8) (hlen : body.length = v.toNat) : body ≠ [] := by
  rintro rfl
  exact hv (BitVec.eq_of_toNat_eq hlen.symm)

theorem encodeBytes_frame {st : EncoderState} {v : Byte} {body : List Byte} (hi : st.idle = true) (hv : v ≠ 0#8)
    (hlen : body.length = v.toNat) :
    encodeBytes st (v :: body) =
      ({ idle := true
         remaining := 0#8
         sum1 := closedCk1 (v :: body)
         sum2 := closedCk2 (v :: body)
         fault := st.fault }, serialize (frameItems v body)) := by
  have hne := payload_ne_nil hv hlen
  have hsums : body.foldl ckFold (opFrameStart v st).1.sums = foldAll (v :: body) := rfl
  rw [encodeBytes_cons, encodeByte_frameStart hi hv, encodeBytes_closing (st := (opFrameStart v st).1) rfl hne hlen,
    closingResult, hsums, frameItems_eq v body st, serialize_append (opFrameStart v st).2, foldAll_eq_closed]
  rfl

theorem frameItems_length (v : Byte) (body : List Byte) : (frameItems v body).length = body.length + 15 := by
  simp [frameItems]

/-- Settles O38: the length byte opens the frame, and the payload closes it by induction on the bytes still owed. -/
theorem frameBytesGiveTheFrameItems : Obligations.FrameBytesGiveTheFrameItems := by
  unfold Obligations.FrameBytesGiveTheFrameItems
  intro st v body hi hv hlen
  have hne := payload_ne_nil hv hlen
  refine ⟨encodeBytes_frame hi hv hlen, ?_, ?_, ?_⟩
  · rw [countStarts, encodeByte_frameStart hi hv, countStarts_closing (st := (opFrameStart v st).1) rfl hne hlen]
    simp [hi, hv]
  · rw [countLasts, encodeByte_frameStart hi hv, countLasts_closing (st := (opFrameStart v st).1) rfl hne hlen]
    simp [hi]
  · rw [serialize_length, frameItems_length, hlen]

/-- Zero bytes in IDLE give idle items alone (30_encoding.md R56). -/
theorem encodeBytes_zeros {st : EncoderState} (n : Nat) (hi : st.idle = true) :
    encodeBytes st (List.replicate n 0#8) = (st, List.replicate (8 * n) Config.idleSym) := by
  induction n with
  | zero => rfl
  | succ n ih =>
    rw [List.replicate_succ, encodeBytes_cons, encodeByte_idleFill hi, ih, Nat.mul_succ, Nat.add_comm,
      List.replicate_add]
    rfl

/-! ### A whole invocation with room for its output -/

theorem room_mono {cap : Option Nat} {used needed less : Nat} (h : room cap used needed) (hle : less ≤ needed) :
    room cap used less :=
  fun c hc => (Nat.add_le_add_left hle used).trans (h c hc)

/-- An open invocation with room for all its output takes one step a byte and one to return. -/
theorem runSteps_invocation_room {s : State} {rest : List Byte} {k : Nat} {outc : List Sym} (hs : s.able)
    (ha : s.activity = .invocation rest k outc)
    (hroom : room s.outCapacity outc.length (encodeBytes s.st rest).2.length) :
    runSteps (rest.length + 1) s = .next (s.returned (s.position + rest.length)
      ((encodeBytes s.st rest).1, .ok (outc ++ (encodeBytes s.st rest).2))) := by
  induction rest generalizing s k outc with
  | nil =>
    obtain ⟨-, -, hf⟩ := hs
    rw [List.length_nil, runSteps_succ 0 (step_return ha hf)]
    simp [State.returned, State.returnOk, encodeBytes]
  | cons b rest ih =>
    rw [encodeBytes_cons, List.length_append] at hroom
    have hfit := (fits_iff ..).2 (room_mono hroom (Nat.le_add_right ..))
    have hstep := step_invocation_commit hs ha
    rw [State.commit_fits _ ha hfit, List.tail_cons] at hstep
    obtain ⟨hc, hw, hf⟩ := hs
    have hrun := ih (s := s.appendBurst (encodeByte s.st b).1 (encodeByte s.st b).2 rest k outc)
      ⟨hc, encodeByte_wf b hw, by simpa using hf⟩ rfl (by simpa [room, Nat.add_assoc] using hroom)
    rw [List.length_cons, runSteps_succ _ hstep, hrun]
    simp [State.returned, State.appendBurst, encodeBytes_cons, Nat.add_assoc, Nat.add_comm 1]

/-- A call with room for all its output takes one step to open, one a byte and one to return. -/
theorem runSteps_call_room {s : State} {c : List Byte} {more : List HostAction} (hs : s.able)
    (ha : s.activity = .waiting) (hh : s.host = .call c :: more)
    (hroom : room s.outCapacity 0 (encodeBytes s.st c).2.length) :
    runSteps (c.length + 2) s = .next { s with
      st := (encodeBytes s.st c).1
      position := s.position + c.length
      results := s.results ++ [.ok (encodeBytes s.st c).2]
      host := more } := by
  obtain ⟨hc, hw, hf⟩ := hs
  have hopen : s.dropAction.beginCall c = { s.dropAction with activity := .invocation c 0 [] } := by
    simp [State.beginCall, hf]
  have hrun := runSteps_invocation_room (s := { s.dropAction with activity := .invocation c 0 [] })
    ⟨hc, hw, hf⟩ rfl hroom
  rw [runSteps_succ _ (step_call ha hh hc), hopen, hrun]
  simp [State.returned, State.dropAction, ha, hh]

/-- Settles O39: the call runs the frame's bytes, and the frame's symbols fit. -/
theorem invocationSendsOneWholeFrame : Obligations.InvocationSendsOneWholeFrame := by
  unfold Obligations.InvocationSendsOneWholeFrame
  intro s v body more hs ha hi hv hlen hh hroom
  have hframe := encodeBytes_frame hi hv hlen
  have hsyms : (serialize (frameItems v body)).length = 8 * (v.toNat + 15) := by
    rw [serialize_length, frameItems_length, hlen]
  have hrun := runSteps_call_room hs ha hh (by rwa [hframe, hsyms])
  obtain ⟨-, -, hf⟩ := hs
  rw [hframe, List.length_cons, hlen, hf] at hrun
  exact hrun

/-- Settles O40: the call runs the zero bytes, and their idle symbols fit. -/
theorem zeroBytesInIdleGiveIdleSymbols : Obligations.ZeroBytesInIdleGiveIdleSymbols := by
  unfold Obligations.ZeroBytesInIdleGiveIdleSymbols
  intro s n more hs ha hi hh hroom
  have hzeros := encodeBytes_zeros n hi
  have hrun := runSteps_call_room hs ha hh (by rwa [hzeros, List.length_replicate])
  rw [hzeros, List.length_replicate] at hrun
  exact hrun

end Sys2Proof.Machine

/-! Family 40_frame_state_machine.md: what an operation and a step can do, the four operations in an open invocation,
the frame of all four, and the invariant. -/

namespace Sys2Proof.Machine

/-! ### The operation that a byte selects -/

theorem selected_idleFill {st : EncoderState} (hi : st.idle = true) : selected st 0#8 = .idleFill := by
  simp [selected, hi]

theorem selected_frameStart {st : EncoderState} {v : Byte} (hi : st.idle = true) (hv : v ≠ 0#8) :
    selected st v = .frameStart v := by
  simp [selected, hi, hv]

theorem selected_payload {st : EncoderState} (v : Byte) (hi : st.idle = false) (hr : st.remaining ≠ 1#8) :
    selected st v = .payload (v == 0#8) v := by
  simp [selected, hi, hr]

theorem selected_payloadLast {st : EncoderState} (v : Byte) (hi : st.idle = false) (hr : st.remaining = 1#8) :
    selected st v = .payloadLast (v == 0#8) v := by
  simp [selected, hi, hr]

theorem remaining_ne_one {st : EncoderState} (hr : 2 ≤ st.remaining.toNat) : st.remaining ≠ 1#8 := by
  bv_omega

/-- Settles O12: the decoder answers the operation that the state and the byte select, and the step runs that one. -/
theorem stepRunsDecodedOperation : Obligations.StepRunsDecodedOperation := by
  unfold Obligations.StepRunsDecodedOperation
  intro s b rest k outc i ha hd
  rw [decode_selector, Decoded.op.injEq] at hd
  rw [step_invocation_byte ha, hd]

/-! ### What an operation can do -/

theorem nextByte_of_invocation {s : State} {b : Byte} {rest : List Byte} {k : Nat} {outc : List Sym}
    (ha : s.activity = .invocation rest k outc) (hb : s.nextByte = some b) : ∃ rest', rest = b :: rest' := by
  simpa [State.nextByte, ha, List.head?_eq_some_iff] using hb

/-- A byte at the port is read only while no burst is pending (43_output_buffer.md R126). -/
theorem nextByte_of_transfer {s : State} {b data : Byte} {lag : Nat} (ha : s.activity = .transfer data lag)
    (hb : s.nextByte = some b) : s.pb = [] ∧ data = b := by
  simpa [State.nextByte, ha] using hb

theorem State.commit_transfer {s : State} {data : Byte} {lag : Nat} (st' : EncoderState) (syms : List Sym)
    (ha : s.activity = .transfer data lag) : s.commit st' syms = s.loadBurst st' syms lag := by
  simp [State.commit, ha]

/-- WHAT A BYTE CAN DO: in an open invocation its burst is appended or raises the exception, and at an input transfer it
is loaded (40_frame_state_machine.md R74, 43_output_buffer.md R126). -/
inductive State.ByteTo (s : State) (b : Byte) : State → Prop
  | append {rest : List Byte} {k : Nat} {outc : List Sym} (ha : s.activity = .invocation (b :: rest) k outc)
      (hroom : room s.outCapacity outc.length (burstSize (selected s.st b))) :
      s.ByteTo b (s.appendBurst (encodeByte s.st b).1 (encodeByte s.st b).2 rest k outc)
  | exhaust {rest : List Byte} {k : Nat} {outc : List Sym} (ha : s.activity = .invocation (b :: rest) k outc)
      (hroom : ¬room s.outCapacity outc.length (burstSize (selected s.st b))) :
      s.ByteTo b (s.raiseOutputExhausted
        (exhaustedInfo s.outCapacity k (burstSize (selected s.st b)) outc.length))
  | load {lag : Nat} (ha : s.activity = .transfer b lag) (hpb : s.pb = []) :
      s.ByteTo b (s.loadBurst (encodeByte s.st b).1 (encodeByte s.st b).2 lag)

/-- A burst has room where it passes the capacity check (43_output_buffer.md R123). -/
theorem fits_burst_iff (cap : Option Nat) (used : Nat) (st : EncoderState) (b : Byte) :
    fits cap used (encodeByte st b).2.length = true ↔ room cap used (burstSize (selected st b)) := by
  rw [encodeByte_length]
  exact fits_iff ..

theorem State.byteTo_commit {s : State} {b : Byte} (hb : s.nextByte = some b) :
    s.ByteTo b (s.commit (encodeByte s.st b).1 (encodeByte s.st b).2) := by
  cases ha : s.activity with
  | waiting => simp [State.nextByte, ha] at hb
  | placedWord w => simp [State.nextByte, ha] at hb
  | transfer data lag =>
    obtain ⟨hpb, rfl⟩ := nextByte_of_transfer ha hb
    rw [State.commit_transfer _ _ ha]
    exact .load ha hpb
  | invocation rest k outc =>
    obtain ⟨rest, rfl⟩ := nextByte_of_invocation ha hb
    have hiff := fits_burst_iff s.outCapacity outc.length s.st b
    cases hfit : fits s.outCapacity outc.length (encodeByte s.st b).2.length with
    | true =>
      rw [State.commit_fits _ ha hfit]
      exact .append ha (hiff.1 hfit)
    | false =>
      rw [State.commit_exhausted _ ha hfit, encodeByte_length]
      exact .exhaust ha (fun h => by simp [hiff.2 h] at hfit)

/-- An operation answers a next state only for the next byte, which selects it, of an able encoder. -/
theorem exec_next {i : Instr} {s t : State} (h : exec i s = .next t) :
    s.able ∧ ∃ b, i = selected s.st b ∧ s.ByteTo b t := by
  rw [exec_eq_perform] at h
  obtain ⟨hc, hw, hf, ⟨b, hb, rfl⟩, rfl⟩ := perform_next h
  exact ⟨⟨hc, hw, hf⟩, b, rfl, State.byteTo_commit hb⟩

/-- Settles O21: by what a byte can do; only the exception sets the fault, since an operation starts and ends without. -/
theorem operationsLeaveTheRestUnchanged : Obligations.OperationsLeaveTheRestUnchanged := by
  unfold Obligations.OperationsLeaveTheRestUnchanged
  intro s t i h
  obtain ⟨⟨-, -, hf⟩, b, -, hbyte⟩ := exec_next h
  cases hbyte with
  | append ha hroom => simp [ha, hf]
  | exhaust ha hroom => simp [ha]
  | load ha hpb => simp [ha, hf]

/-! ### The four operations in an open invocation with room -/

/-- The operation that the next byte selects appends its burst where it has room (43_output_buffer.md R116). -/
theorem exec_selected_appends {s : State} {b : Byte} {rest : List Byte} {k : Nat} {outc : List Sym} (hs : s.able)
    (ha : s.activity = .invocation (b :: rest) k outc)
    (hroom : room s.outCapacity outc.length (burstSize (selected s.st b))) :
    exec (selected s.st b) s = .next (s.appendBurst (encodeByte s.st b).1 (encodeByte s.st b).2 rest k outc) := by
  rw [← step_invocation_byte ha, step_invocation_commit hs ha,
    State.commit_fits _ ha ((fits_burst_iff ..).2 hroom), List.tail_cons]

/-- CK_FOLD with the registers as the numbers of 42_checksum.md R101. -/
theorem ckFold_eq_ofNat (acc : Byte × Byte) (b : Byte) :
    ckFold acc b = (BitVec.ofNat 8 ((acc.1.toNat + b.toNat) % 255),
      BitVec.ofNat 8 ((acc.2.toNat + (acc.1.toNat + b.toNat) % 255) % 255)) := by
  rw [ckFold, addMod255_eq_ofNat acc.2, addMod255_toNat, addMod255_eq_ofNat]

theorem ckFold_reset_eq_ofNat (v : Byte) :
    ckFold ckReset v = (BitVec.ofNat 8 (v.toNat % 255), BitVec.ofNat 8 (v.toNat % 255)) := by
  simp [ckFold_eq_ofNat, ckReset]

/-- CK_FINAL changes nothing after a fold (42_checksum.md R102). -/
theorem ckFinal_ckFold (acc : Byte × Byte) (b : Byte) : ckFinal (ckFold acc b) = ckFold acc b :=
  ckFinal_of_le (ckFold_le acc b).1 (ckFold_le acc b).2

theorem remaining_sub_one {r : Byte} (hr : 2 ≤ r.toNat) : r - 1#8 = BitVec.ofNat 8 (r.toNat - 1) := by
  bv_omega

/-- Settles O14: the byte 0x00 selects IDLE_FILL, whose burst is one idle item. -/
theorem idleFillCompletes : Obligations.IdleFillCompletes := by
  unfold Obligations.IdleFillCompletes
  intro s rest k outc hs ha hi hroom
  have hsel := selected_idleFill hi
  have h := exec_selected_appends hs ha (by rwa [hsel])
  rw [hsel, encodeByte_idleFill hi] at h
  exact h

/-- Settles O15: a nonzero byte in IDLE selects FRAME_START, and the sums start from (0, 0). -/
theorem frameStartCompletes : Obligations.FrameStartCompletes := by
  unfold Obligations.FrameStartCompletes
  intro s v rest k outc hs ha hi hv hroom
  have hsel := selected_frameStart hi hv
  have h := exec_selected_appends hs ha (by rwa [hsel])
  obtain ⟨-, -, hf⟩ := hs
  rw [hsel, encodeByte_frameStart hi hv, opFrameStart, ckFold_reset_eq_ofNat, EncoderState.setSums, hf] at h
  exact h

/-- Settles O16: a byte inside a frame with more than one byte owed selects PAYLOAD, which counts down. -/
theorem payloadCompletes : Obligations.PayloadCompletes := by
  unfold Obligations.PayloadCompletes
  intro s v rest k outc hs ha hi hr hroom
  have hne := remaining_ne_one hr
  have hsel := selected_payload v hi hne
  have h := exec_selected_appends hs ha (by rwa [hsel])
  rw [hsel, encodeByte_payload v hi hne, opPayload, ckFold_eq_ofNat, remaining_sub_one hr] at h
  exact h

/-- Settles O17: the last byte owed selects PAYLOAD_LAST, and the checksum bytes are the new sums. -/
theorem payloadLastCompletes : Obligations.PayloadLastCompletes := by
  unfold Obligations.PayloadLastCompletes
  intro s v rest k outc hs ha hi hr hroom
  have hsel := selected_payloadLast v hi hr
  have h := exec_selected_appends hs ha (by rwa [hsel])
  rw [hsel, encodeByte_payloadLast v hi hr, opPayloadLast, ckFinal_ckFold, ckFold_eq_ofNat, hr,
    serialize_append] at h
  rw [List.append_assoc]
  exact h

/-- Settles O19: the step runs the operation that the byte selects, and R16 leaves one of the four cases. -/
theorem transitionsFollowTheTable : Obligations.TransitionsFollowTheTable := by
  unfold Obligations.TransitionsFollowTheTable
  refine ⟨rfl, fun s b rest k outc hs ha hroom => ?_⟩
  have h := exec_selected_appends hs ha hroom
  refine ⟨_, (step_invocation_byte ha).trans h, ?_⟩
  obtain ⟨-, hw, -⟩ := hs
  obtain ⟨-, hpos, -⟩ := s.st.wf_iff.1 hw
  cases hi : s.st.idle with
  | true =>
    by_cases hb : b = 0#8
    · subst hb
      exact .inl ⟨rfl, rfl, selected_idleFill hi ▸ h, by simp [encodeByte_idleFill hi, hi]⟩
    · exact .inr (.inl ⟨rfl, hb, selected_frameStart hi hb ▸ h, by simp [encodeByte_frameStart hi hb, opFrameStart]⟩)
  | false =>
    by_cases hr : s.st.remaining = 1#8
    · exact .inr (.inr (.inr ⟨rfl, hr, selected_payloadLast b hi hr ▸ h,
        by simp [encodeByte_payloadLast b hi hr, opPayloadLast]⟩))
    · have hpos := hpos hi
      exact .inr (.inr (.inl ⟨rfl, by bv_omega, selected_payload b hi hr ▸ h,
        by simp [encodeByte_payload b hi hr, opPayload, hi]⟩))

/-! ### What a step can do -/

/-- WHAT A STEP CAN DO: the host's reset and an edge with `rst = 1` reset; a call opens an invocation; an edge without
`rst` transfers a byte, else a symbol, else lets a cycle pass (43_output_buffer.md R125 to R127); an open byte is encoded; a
used-up invocation returns (R119). -/
inductive State.StepTo (s : State) : State → Prop
  | stay (ha : s.activity = .waiting) (hh : s.host = []) : s.StepTo s
  | reset {more : List HostAction} (ha : s.activity = .waiting)
      (hh : s.host = .reset :: more ∨ ∃ e, s.host = .edge e :: more ∧ e.rst = true) :
      s.StepTo s.dropAction.resetEncoder
  | call {c : List Byte} {more : List HostAction} (ha : s.activity = .waiting) (hh : s.host = .call c :: more)
      (hc : s.constructed = true) : s.StepTo (s.dropAction.beginCall c)
  | accept {e : Edge} {more : List HostAction} (ha : s.activity = .waiting) (hh : s.host = .edge e :: more)
      (hr : e.rst = false) (hin : s.inTransfer e = true) (hs : s.able) (hpb : s.pb = []) :
      s.StepTo (s.dropAction.loadBurst (encodeByte s.st e.inData).1 (encodeByte s.st e.inData).2 e.lag)
  | send {e : Edge} {more : List HostAction} (ha : s.activity = .waiting) (hh : s.host = .edge e :: more)
      (hr : e.rst = false) (hin : s.inTransfer e = false) (hout : s.outTransfer e = true) :
      s.StepTo (s.dropAction.sendSym e.lag)
  | pass {e : Edge} {more : List HostAction} (ha : s.activity = .waiting) (hh : s.host = .edge e :: more)
      (hr : e.rst = false) (hin : s.inTransfer e = false) (hout : s.outTransfer e = false) :
      s.StepTo s.dropAction.passCycle
  | byte {b : Byte} {t : State} (hs : s.able) (hb : s.ByteTo b t) : s.StepTo t
  | ret {k : Nat} {outc : List Sym} (ha : s.activity = .invocation [] k outc) (hf : s.st.fault = false) :
      s.StepTo (s.returnOk outc)

/-- A fetched operation answers a next state only for the next byte of an able encoder. -/
theorem fetch_run_next {s t : State} (h : (fetch s).run = .next t) : s.able ∧ ∃ b, s.ByteTo b t := by
  cases hb : s.nextByte with
  | none => simp [fetch, hb, Plan.run] at h
  | some b =>
    rw [fetch_selected hb (decode_selector ..)] at h
    obtain ⟨hs, b', -, hbyte⟩ := exec_next h
    exact ⟨hs, b', hbyte⟩

theorem State.stepTo_edge {s t : State} {e : Edge} {more : List HostAction} (ha : s.activity = .waiting)
    (hh : s.host = .edge e :: more) (h : step s = .next t) : s.StepTo t := by
  rw [step_edge ha hh, clockEdge] at h
  split_ifs at h with hr hc hin hout
  · cases h
    exact .reset ha (.inr ⟨e, hh, hr⟩)
  · cases h
  all_goals have hr : e.rst = false := Bool.eq_false_of_not_eq_true hr
  · obtain ⟨hs, b, hbyte⟩ := fetch_run_next h
    cases hbyte with
    | append ha' _ => cases ha'
    | exhaust ha' _ => cases ha'
    | load ha' hpb =>
      cases ha'
      exact .accept ha hh hr hin hs hpb
  all_goals have hin : s.inTransfer e = false := Bool.eq_false_of_not_eq_true hin
  · cases h
    exact .send ha hh hr hin hout
  · cases h
    exact .pass ha hh hr hin (Bool.eq_false_of_not_eq_true hout)

/-- A word from outside is no byte, so no operation answers a next state for it. -/
theorem step_placedWord_ne_next {s t : State} {w : Nat} (ha : s.activity = .placedWord w) : step s ≠ .next t := by
  intro h
  cases hd : decodeNat w with
  | rejected e => simp [step_placedWord_rejected ha hd] at h
  | op i =>
    rw [step_placedWord_op ha hd] at h
    obtain ⟨-, b, -, hbyte⟩ := exec_next h
    cases hbyte with
    | append ha' _ => simp [ha] at ha'
    | exhaust ha' _ => simp [ha] at ha'
    | load ha' _ => simp [ha] at ha'

theorem step_transfer {s : State} {data : Byte} {lag : Nat} (ha : s.activity = .transfer data lag) :
    step s = (fetch s).run := by
  simp [step, plan, ha]

theorem State.stepTo_of_step {s t : State} (h : step s = .next t) : s.StepTo t := by
  cases ha : s.activity with
  | waiting =>
    cases hh : s.host with
    | nil =>
      obtain rfl : s = t := by simpa [step_waiting ha hh] using h
      exact .stay ha hh
    | cons act more =>
      cases act with
      | reset =>
        obtain rfl : s.dropAction.resetEncoder = t := by simpa [step_reset ha hh] using h
        exact .reset ha (.inl hh)
      | call c =>
        cases hc : s.constructed with
        | false => simp [step, Plan.run, plan, ha, hh, hc] at h
        | true =>
          obtain rfl : s.dropAction.beginCall c = t := by simpa [step_call ha hh hc] using h
          exact .call ha hh hc
      | edge e => exact State.stepTo_edge ha hh h
  | invocation rest k outc =>
    cases rest with
    | nil =>
      cases hf : s.st.fault with
      | true => simp [step_return_faulted ha hf] at h
      | false =>
        obtain rfl : s.returnOk outc = t := by simpa [step_return ha hf] using h
        exact .ret ha hf
    | cons b rest =>
      rw [step_invocation_cons ha] at h
      obtain ⟨hs, b', hbyte⟩ := fetch_run_next h
      exact .byte hs hbyte
  | transfer data lag =>
    rw [step_transfer ha] at h
    obtain ⟨hs, b, hbyte⟩ := fetch_run_next h
    exact .byte hs hbyte
  | placedWord w => exact absurd h (step_placedWord_ne_next ha)

/-! ### The outputs that the invariant speaks of -/

theorem inAlphabet_of_mem_serialize {items : List Item} {x : Sym} (hx : x ∈ serialize items) :
    inAlphabet x = true := by
  obtain rfl | rfl | rfl := onlyTheThreeCodesAreProduced.1 items x hx <;> rfl

theorem goodOutput_nil : goodOutput [] := ⟨rfl, by simp⟩

theorem goodOutput_append {xs ys : List Sym} (hx : goodOutput xs) (hy : goodOutput ys) : goodOutput (xs ++ ys) := by
  obtain ⟨hxlen, hxmem⟩ := hx
  obtain ⟨hylen, hymem⟩ := hy
  refine ⟨by rw [List.length_append]; omega, fun x hmem => ?_⟩
  exact (List.mem_append.1 hmem).elim (hxmem x) (hymem x)

/-- A burst is whole groups of eight over the alphabet (20_memory.md R35, 30_encoding.md R52). -/
theorem goodOutput_encodeByte (st : EncoderState) (b : Byte) : goodOutput (encodeByte st b).2 :=
  ⟨by simp [encodeByte, serialize_length], fun _ => inAlphabet_of_mem_serialize⟩

theorem encodeByte_length_le (st : EncoderState) (b : Byte) : (encodeByte st b).2.length ≤ 88 := by
  rw [encodeByte_length]
  have := burstSize_cases (selected st b)
  omega

theorem room_append {cap : Option Nat} {xs ys : List Sym} (h : room cap xs.length ys.length) :
    room cap (xs ++ ys).length 0 := by
  simpa [room] using h

/-! ### Each update keeps the invariant -/

theorem State.activityGood_of_waiting {s : State} (ha : s.activity = .waiting) : s.activityGood := by
  simp [State.activityGood, ha]

theorem State.activityGood_invocation_iff {s : State} {rest : List Byte} {k : Nat} {outc : List Sym}
    (ha : s.activity = .invocation rest k outc) :
    s.activityGood ↔ s.st.fault = false ∧ goodOutput outc ∧ room s.outCapacity outc.length 0 := by
  simp [State.activityGood, ha]

theorem State.Inv.dropAction {s : State} (h : s.Inv) : s.dropAction.Inv := h

theorem State.Inv.passCycle {s : State} (h : s.Inv) : s.passCycle.Inv := h

theorem State.Inv.resetEncoder {s : State} (h : s.Inv) (ha : s.activity = .waiting) : s.resetEncoder.Inv := by
  obtain ⟨-, -, -, -, hwire, -, hres⟩ := h
  exact ⟨rfl, resetMeetsTheInvariant.2 s, by simp, by simp, hwire, State.activityGood_of_waiting ha, hres⟩

/-- One more result that is good keeps all results good. -/
theorem forall_good_append {cap : Option Nat} {rs : List CallResult} {r : CallResult} (hrs : ∀ r ∈ rs, r.good cap)
    (hr : r.good cap) : ∀ r' ∈ rs ++ [r], r'.good cap := by
  simpa [or_imp, forall_and] using ⟨hrs, hr⟩

theorem State.Inv.beginCall {s : State} (h : s.Inv) (ha : s.activity = .waiting) (c : List Byte) :
    (s.beginCall c).Inv := by
  obtain ⟨hc, hw, hlen, hpb, hwire, -, hres⟩ := h
  cases hf : s.st.fault with
  | true =>
    rw [State.beginCall, if_pos hf]
    exact ⟨hc, hw, hlen, hpb, hwire, State.activityGood_of_waiting ha, forall_good_append hres trivial⟩
  | false =>
    rw [State.beginCall, if_neg (by simp [hf])]
    exact ⟨hc, hw, hlen, hpb, hwire, ⟨hf, goodOutput_nil, fun _ _ => Nat.zero_le _⟩, hres⟩

theorem State.Inv.loadBurst {s : State} (h : s.Inv) (b : Byte) (lag : Nat) :
    (s.loadBurst (encodeByte s.st b).1 (encodeByte s.st b).2 lag).Inv := by
  obtain ⟨hc, hw, -, -, hwire, -, hres⟩ := h
  obtain ⟨-, hmem⟩ := goodOutput_encodeByte s.st b
  exact ⟨hc, encodeByte_wf b hw, encodeByte_length_le s.st b, hmem, hwire, trivial, hres⟩

/-- The symbol that leaves the pending burst was in it. -/
theorem State.Inv.sendSym {s : State} (h : s.Inv) (lag : Nat) : (s.sendSym lag).Inv := by
  obtain ⟨hc, hw, hlen, hpb, hwire, hact, hres⟩ := h
  refine ⟨hc, hw, ?_, fun x hx => hpb x (List.mem_of_mem_tail hx), fun x hx => ?_, hact, hres⟩
  · simp only [State.sendSym_pb, List.length_tail]
    omega
  · rcases List.mem_append.1 hx with hx | hx
    · exact hwire x hx
    · exact hpb x (List.mem_of_head? (Option.mem_toList.1 hx))

theorem State.Inv.appendBurst {s : State} {b : Byte} {rest : List Byte} {k : Nat} {outc : List Sym} (h : s.Inv)
    (ha : s.activity = .invocation (b :: rest) k outc)
    (hroom : room s.outCapacity outc.length (burstSize (selected s.st b))) :
    (s.appendBurst (encodeByte s.st b).1 (encodeByte s.st b).2 rest k outc).Inv := by
  obtain ⟨hc, hw, hlen, hpb, hwire, hact, hres⟩ := h
  obtain ⟨hf, hgood, -⟩ := (State.activityGood_invocation_iff ha).1 hact
  rw [← encodeByte_length] at hroom
  exact ⟨hc, encodeByte_wf b hw, hlen, hpb, hwire,
    ⟨(encodeByte_fault s.st b).trans hf, goodOutput_append hgood (goodOutput_encodeByte s.st b), room_append hroom⟩,
    hres⟩

theorem State.Inv.raiseOutputExhausted {s : State} (h : s.Inv) (info : FaultInfo) :
    (s.raiseOutputExhausted info).Inv := by
  obtain ⟨hc, hw, hlen, hpb, hwire, -, hres⟩ := h
  exact ⟨hc, hw, hlen, hpb, hwire, trivial, forall_good_append hres trivial⟩

theorem State.Inv.returnOk {s : State} {rest : List Byte} {k : Nat} {outc : List Sym} (h : s.Inv)
    (ha : s.activity = .invocation rest k outc) : (s.returnOk outc).Inv := by
  obtain ⟨hc, hw, hlen, hpb, hwire, hact, hres⟩ := h
  obtain ⟨-, hgood, hroom⟩ := (State.activityGood_invocation_iff ha).1 hact
  exact ⟨hc, hw, hlen, hpb, hwire, trivial, forall_good_append hres ⟨hgood, hroom⟩⟩

theorem State.Inv.byteTo {s t : State} {b : Byte} (h : s.Inv) (hb : s.ByteTo b t) : t.Inv := by
  cases hb with
  | append ha hroom => exact h.appendBurst ha hroom
  | exhaust ha hroom => exact h.raiseOutputExhausted _
  | load ha hpb => exact h.loadBurst b _

/-- Settles O24: each thing that a step can do keeps the invariant. -/
theorem stepKeepsTheInvariant : Obligations.StepKeepsTheInvariant := by
  unfold Obligations.StepKeepsTheInvariant
  intro s t h hstep
  cases State.stepTo_of_step hstep with
  | stay ha hh => exact h
  | reset ha hh => exact h.dropAction.resetEncoder ha
  | call ha hh hc => exact h.dropAction.beginCall ha _
  | accept ha hh hr hin hs hpb => exact h.dropAction.loadBurst _ _
  | send ha hh hr hin hout => exact h.dropAction.sendSym _
  | pass ha hh hr hin hout => exact h.dropAction.passCycle
  | byte hs hb => exact h.byteTo hb
  | ret ha hf => exact h.returnOk ha

end Sys2Proof.Machine

/-! Family 41_bit_serializer.md: the bits of a data byte, the group of each item, and the reader that takes the groups
back to the items. -/

namespace Sys2Proof.Machine

/-! ### The groups of eight -/

theorem serData_getElem? (b : Byte) {k : Nat} (hk : k < 8) : (serData b)[k]? = some (bitSym (b.getLsbD k)) := by
  interval_cases k <;> rfl

/-- Settles O27: the symbol at position `k` is the symbol of bit `k`. -/
theorem dataSymbolsAreLsbFirst : Obligations.DataSymbolsAreLsbFirst := by
  unfold Obligations.DataSymbolsAreLsbFirst
  exact fun b => ⟨serData_length b, fun _ hk => serData_getElem? b hk⟩

theorem serialize_singleton (item : Item) : serialize [item] = serItem item :=
  List.append_nil _

/-- To skip `8k` symbols is to skip `k` items. -/
theorem drop_serialize (items : List Item) (k : Nat) : (serialize items).drop (8 * k) = serialize (items.drop k) := by
  induction items generalizing k with
  | nil => simp
  | cons item items ih =>
    cases k with
    | zero => rfl
    | succ k =>
      have hskip : 8 * (k + 1) = (serItem item).length + 8 * k := by rw [serItem_length]; omega
      rw [hskip, serialize_cons, List.drop_length_add_append, ih, List.drop_succ_cons]

theorem take_serialize_cons (item : Item) (items : List Item) :
    (serialize (item :: items)).take 8 = serItem item :=
  List.take_left' (serItem_length item)

/-- Settles O28: item `k` comes first once `8k` symbols are skipped, and its group is the next eight. -/
theorem serializerEmitsGroupsOfEight : Obligations.SerializerEmitsGroupsOfEight := by
  unfold Obligations.SerializerEmitsGroupsOfEight
  refine ⟨fun b => serialize_singleton (.data b), serialize_singleton .idle, fun items =>
    ⟨serialize_length items, fun k item hitem => ?_⟩⟩
  obtain ⟨hk, rfl⟩ := List.getElem?_eq_some_iff.1 hitem
  rw [drop_serialize, List.drop_eq_getElem_cons hk, take_serialize_cons, serialize_singleton]

/-! ### The reader -/

@[simp] theorem readBit_bitSym (v : Bool) : readBit (bitSym v) = some v := by
  cases v <;> rfl

theorem idleSym_notMem_serItem_data (b : Byte) : Config.idleSym ∉ serItem (.data b) :=
  serialize_singleton (.data b) ▸ onlyTheThreeCodesAreProduced.2 b

theorem serItem_data_ne_idle (b : Byte) : serItem (.data b) ≠ serItem .idle := fun h =>
  idleSym_notMem_serItem_data b (h ▸ List.mem_replicate.2 ⟨by decide, rfl⟩)

/-- The bits of a byte, put together again from bit 7 down to bit 0. -/
theorem append_ofBool_getLsbD (b : Byte) :
    BitVec.ofBool (b.getLsbD 7) ++ BitVec.ofBool (b.getLsbD 6) ++ BitVec.ofBool (b.getLsbD 5)
      ++ BitVec.ofBool (b.getLsbD 4) ++ BitVec.ofBool (b.getLsbD 3) ++ BitVec.ofBool (b.getLsbD 2)
      ++ BitVec.ofBool (b.getLsbD 1) ++ BitVec.ofBool (b.getLsbD 0) = b := by
  apply BitVec.eq_of_getLsbD_eq
  intro i hi
  simp only [BitVec.getLsbD_append, BitVec.getLsbD_ofBool]
  interval_cases i <;> rfl

theorem readByte_bitSym (b : Byte) :
    readByte (bitSym (b.getLsbD 0)) (bitSym (b.getLsbD 1)) (bitSym (b.getLsbD 2)) (bitSym (b.getLsbD 3))
      (bitSym (b.getLsbD 4)) (bitSym (b.getLsbD 5)) (bitSym (b.getLsbD 6)) (bitSym (b.getLsbD 7)) = some b := by
  simp only [readByte, readBit_bitSym, Option.bind_eq_bind, Option.bind_some, append_ofBool_getLsbD, Option.pure_def]

/-- The reader takes the first group for its item: a data group is not the eight IDLE symbols of the idle item. -/
theorem readItems_serItem_append (item : Item) (more : List Sym) :
    readItems (serItem item ++ more) = (readItems more).map (fun items => item :: items) := by
  cases item with
  | idle => exact if_pos rfl
  | data b =>
    refine (if_neg (serItem_data_ne_idle b)).trans ?_
    rw [readByte_bitSym]
    rfl

theorem readItems_serialize (items : List Item) : readItems (serialize items) = some items := by
  induction items with
  | nil => rfl
  | cons item items ih => rw [serialize_cons, readItems_serItem_append, ih, Option.map_some]

/-- Settles O30: the reader is a left inverse of the serializer, and a data group holds no IDLE symbol. -/
theorem readerRecoversTheItems : Obligations.ReaderRecoversTheItems := by
  unfold Obligations.ReaderRecoversTheItems
  refine ⟨readItems_serialize, fun items items' h => ?_, fun b => ?_⟩
  · rw [← Option.some_inj, ← readItems_serialize items, ← readItems_serialize items', h]
  · rw [serialize_singleton, serialize_singleton]
    exact ⟨idleSym_notMem_serItem_data b, serItem_data_ne_idle b⟩

end Sys2Proof.Machine

/-! Family 42_checksum.md: one fold as arithmetic, the range and the closed form of the checksum bytes, the sums without
reduction, and that a frame's symbols do not depend on earlier frames. -/

namespace Sys2Proof.Machine

/-! ### One fold, and CK_FINAL after any folds -/

/-- Settles O32: each of the two additions is one modulo 255. -/
theorem foldAddsModulo255 : Obligations.FoldAddsModulo255 := by
  unfold Obligations.FoldAddsModulo255
  intro s1 s2 b
  exact ⟨addMod255_toNat s1 b, by rw [ckFold, addMod255_toNat, addMod255_toNat]⟩

/-- CK_FINAL changes nothing after any folds (42_checksum.md R102). -/
theorem ckFinal_foldAll (bytes : List Byte) : ckFinal (foldAll bytes) = foldAll bytes :=
  ckFinal_of_le (foldAll_le bytes).1 (foldAll_le bytes).2

/-- Settles O33: the sums are reduced after every fold, so CK_FINAL keeps them. -/
theorem checksumBytesAreNeverFF : Obligations.ChecksumBytesAreNeverFF := by
  unfold Obligations.ChecksumBytesAreNeverFF
  intro bytes
  rw [ckFinal_foldAll]
  exact ⟨rfl, foldAll_le bytes⟩

/-- Settles O35: CK_FINAL keeps the sums, and these have the closed form. -/
theorem checksumHasTheClosedForm : Obligations.ChecksumHasTheClosedForm := by
  unfold Obligations.ChecksumHasTheClosedForm
  intro bytes
  rw [ckFinal_foldAll, foldAll_eq_closed]

/-! ### The sums without reduction -/

theorem foldAll_concat (bytes : List Byte) (b : Byte) : foldAll (bytes ++ [b]) = ckFold (foldAll bytes) b :=
  List.foldl_concat ..

theorem deferredSums_concat (bytes : List Byte) (b : Byte) :
    deferredSums (bytes ++ [b]) =
      ((deferredSums bytes).1 + b.toNat, (deferredSums bytes).2 + ((deferredSums bytes).1 + b.toNat)) :=
  List.foldl_concat ..

theorem foldAll_toNat (bytes : List Byte) :
    (foldAll bytes).1.toNat = (deferredSums bytes).1 % 255
      ∧ (foldAll bytes).2.toNat = (deferredSums bytes).2 % 255 := by
  induction bytes using List.reverseRecOn with
  | nil => exact ⟨rfl, rfl⟩
  | append_singleton bytes b ih =>
    obtain ⟨ih1, ih2⟩ := ih
    obtain ⟨h1, h2⟩ := foldAddsModulo255 (foldAll bytes).1 (foldAll bytes).2 b
    rw [foldAll_concat, deferredSums_concat, h1, h2, ih1, ih2]
    omega

/-- The unreduced sums of `n` equal bytes: `n` times the byte, and `1 + 2 + … + n = (n + 1).choose 2` times. -/
theorem deferredSums_replicate (n : Nat) (b : Byte) :
    deferredSums (List.replicate n b) = (n * b.toNat, (n + 1).choose 2 * b.toNat) := by
  induction n with
  | zero => simp [deferredSums]
  | succ n ih =>
    rw [List.replicate_succ', deferredSums_concat, ih, Nat.choose_succ_succ' (n + 1), Nat.choose_one_right]
    exact Prod.ext (by ring) (by ring)

/-- No bytes give larger unreduced sums than as many bytes 0xFF. -/
theorem deferredSums_le_replicate (bytes : List Byte) :
    (deferredSums bytes).1 ≤ (deferredSums (List.replicate bytes.length 0xFF#8)).1
      ∧ (deferredSums bytes).2 ≤ (deferredSums (List.replicate bytes.length 0xFF#8)).2 := by
  induction bytes using List.reverseRecOn with
  | nil => exact ⟨le_rfl, le_rfl⟩
  | append_singleton bytes b ih =>
    obtain ⟨ih1, ih2⟩ := ih
    have hb : b.toNat ≤ (0xFF#8).toNat := Nat.le_of_lt_succ b.isLt
    rw [List.length_append, List.length_singleton, List.replicate_succ', deferredSums_concat, deferredSums_concat]
    exact ⟨Nat.add_le_add ih1 hb, Nat.add_le_add ih2 (Nat.add_le_add ih1 hb)⟩

/-- The bound of 42_checksum.md R104, which takes `n = 256`: a length byte and at most 255 payload bytes. -/
theorem deferredSums_le {bytes : List Byte} {n : Nat} (hlen : bytes.length ≤ n) :
    (deferredSums bytes).1 ≤ n * 255 ∧ (deferredSums bytes).2 ≤ (n + 1).choose 2 * 255 := by
  obtain ⟨h1, h2⟩ := deferredSums_le_replicate bytes
  rw [deferredSums_replicate] at h1 h2
  exact ⟨h1.trans (Nat.mul_le_mul_right 255 hlen),
    h2.trans (Nat.mul_le_mul_right 255 (Nat.choose_le_choose 2 (Nat.add_le_add_right hlen 1)))⟩

/-- Settles O34: by induction on the folds, and the unreduced sums are largest for bytes 0xFF. -/
theorem deferredReductionAgrees : Obligations.DeferredReductionAgrees := by
  unfold Obligations.DeferredReductionAgrees
  have hchoose : (256 + 1).choose 2 = 32896 := by rw [Nat.choose_two_right]
  refine ⟨fun bytes => ⟨(foldAll_toNat bytes).1, (foldAll_toNat bytes).2, fun hlen => ?_⟩, ?_, by decide⟩
  · have hle := deferredSums_le hlen
    rwa [hchoose] at hle
  · rw [deferredSums_replicate, hchoose]
    rfl

/-! ### Nothing of an earlier frame is seen -/

/-- The two states agree in all that later output can depend on: whether a frame is open, and what is owed and summed
in it. Between frames `remaining` and the sums may differ. -/
def EncoderState.agreeInFrame (st1 st2 : EncoderState) : Prop :=
  st1.idle = st2.idle ∧ (st1.idle = false → st1.remaining = st2.remaining ∧ st1.sums = st2.sums)

theorem EncoderState.agreeInFrame_of_idle {st1 st2 : EncoderState} (h1 : st1.idle = true) (h2 : st2.idle = true) :
    st1.agreeInFrame st2 :=
  ⟨h1.trans h2.symm, fun h => absurd (h1.symm.trans h) (by decide)⟩

/-- A byte gives the same symbols in both states, and keeps their agreement: FRAME_START sets all that an open frame
reads (42_checksum.md R100). -/
theorem encodeByte_of_agreeInFrame {st1 st2 : EncoderState} (h : st1.agreeInFrame st2) (b : Byte) :
    (encodeByte st1 b).2 = (encodeByte st2 b).2
      ∧ (encodeByte st1 b).1.agreeInFrame (encodeByte st2 b).1 := by
  obtain ⟨hidle, hframe⟩ := h
  cases hi2 : st2.idle with
  | true =>
    have hi1 := hidle.trans hi2
    by_cases hb : b = 0#8
    · rw [hb, encodeByte_idleFill hi1, encodeByte_idleFill hi2]
      exact ⟨rfl, EncoderState.agreeInFrame_of_idle hi1 hi2⟩
    · rw [encodeByte_frameStart hi1 hb, encodeByte_frameStart hi2 hb]
      exact ⟨rfl, rfl, fun _ => ⟨rfl, rfl⟩⟩
  | false =>
    have hi1 := hidle.trans hi2
    obtain ⟨hrem, hsums⟩ := hframe hi1
    by_cases hr2 : st2.remaining = 1#8
    · rw [encodeByte_payloadLast b hi1 (hrem.trans hr2), encodeByte_payloadLast b hi2 hr2]
      exact ⟨by rw [opPayloadLast, opPayloadLast, hsums], EncoderState.agreeInFrame_of_idle rfl rfl⟩
    · rw [encodeByte_payload b hi1 (hrem ▸ hr2), encodeByte_payload b hi2 hr2]
      exact ⟨rfl, hidle, fun _ => ⟨congrArg (· - 1#8) hrem, congrArg (ckFold · b) hsums⟩⟩

theorem encodeBytes_of_agreeInFrame {st1 st2 : EncoderState} (h : st1.agreeInFrame st2) (bytes : List Byte) :
    (encodeBytes st1 bytes).2 = (encodeBytes st2 bytes).2 := by
  induction bytes generalizing st1 st2 with
  | nil => rfl
  | cons b bytes ih =>
    obtain ⟨hsyms, hnext⟩ := encodeByte_of_agreeInFrame h b
    rw [encodeBytes_cons, encodeBytes_cons, hsyms, ih hnext]

/-- Settles O37: two states IDLE agree in all that output depends on, and every byte keeps that. -/
theorem outputIgnoresEarlierFrames : Obligations.OutputIgnoresEarlierFrames := by
  unfold Obligations.OutputIgnoresEarlierFrames
  exact fun _ _ bytes h1 h2 => encodeBytes_of_agreeInFrame (EncoderState.agreeInFrame_of_idle h1 h2) bytes

end Sys2Proof.Machine

/-! Family 43_output_buffer.md: the burst sizes, ENCODE_CHUNK and the chunking law, the length of a chunk's output, and
the port-level form edge by edge. -/

namespace Sys2Proof.Machine

/-! ### The clock edges without `rst` -/

theorem inTransfer_iff (s : State) (e : Edge) :
    s.inTransfer e = true ↔ e.rst = false ∧ e.inValid = true ∧ s.pb = [] ∧ s.st.fault = false := by
  cases hr : e.rst <;> simp [State.inTransfer, State.inReady, State.busy, hr]

theorem outValid_iff (s : State) (e : Edge) :
    s.outValid e = true ↔ e.rst = false ∧ s.pb ≠ [] ∧ s.wait = 0 := by
  simp [State.outValid, and_assoc]

theorem outTransfer_iff (s : State) (e : Edge) :
    s.outTransfer e = true ↔ s.outValid e = true ∧ e.outReady = true := by
  have hr : s.outValid e = true → e.rst = false := fun h => ((outValid_iff s e).1 h).1
  simpa [State.outTransfer] using fun hv _ => hr hv

/-- While a burst is pending no byte is transferred (43_output_buffer.md R128). -/
theorem inTransfer_of_pending {s : State} (hpb : s.pb ≠ []) (e : Edge) : s.inTransfer e = false := by
  rw [Bool.eq_false_iff, Ne, inTransfer_iff]
  exact fun ⟨_, _, hnil, _⟩ => hpb hnil

/-- The state in which the edge `e`, taken off the queue, has put its byte at the port. -/
def State.atPort (e : Edge) (s : State) : State :=
  { s.dropAction with activity := .transfer e.inData e.lag }

theorem nextByte_atPort {s : State} (e : Edge) (hpb : s.pb = []) : (s.atPort e).nextByte = some e.inData := by
  simp [State.atPort, State.nextByte, hpb]

/-- An edge that transfers a byte runs the operation that the byte selects (43_output_buffer.md R126). -/
theorem step_edge_inTransfer {s : State} {e : Edge} {more : List HostAction} (hc : s.constructed = true)
    (ha : s.activity = .waiting) (hh : s.host = .edge e :: more) (hin : s.inTransfer e = true) :
    step s = exec (selected s.st e.inData) (s.atPort e) := by
  obtain ⟨hr, -, hpb, -⟩ := (inTransfer_iff s e).1 hin
  have hin' : s.dropAction.inTransfer e = true := hin
  have hfetch := fetch_selected (nextByte_atPort e hpb) (decode_selector ..)
  have hplan : clockEdge e s.dropAction = fetch (s.atPort e) := by
    simp [clockEdge, hr, hc, hin', State.atPort]
  rw [step_edge ha hh, hplan, hfetch]
  rfl

/-- On an able encoder the byte's state is committed and its burst loaded, whatever the capacity (R126). -/
theorem step_edge_loads {s : State} {e : Edge} {more : List HostAction} (hs : s.able) (ha : s.activity = .waiting)
    (hh : s.host = .edge e :: more) (hin : s.inTransfer e = true) :
    step s = .next (s.dropAction.loadBurst (encodeByte s.st e.inData).1 (encodeByte s.st e.inData).2 e.lag) := by
  obtain ⟨hc, hw, hf⟩ := hs
  obtain ⟨-, -, hpb, -⟩ := (inTransfer_iff s e).1 hin
  rw [step_edge_inTransfer hc ha hh hin, exec_eq_perform]
  exact perform_selected (s := s.atPort e) _ hc hw hf (nextByte_atPort e hpb)

/-- An edge that transfers no byte transfers a symbol, or else lets a cycle pass (R127). -/
theorem step_edge_noByte {s : State} {e : Edge} {more : List HostAction} (hc : s.constructed = true)
    (ha : s.activity = .waiting) (hh : s.host = .edge e :: more) (hr : e.rst = false)
    (hin : s.inTransfer e = false) :
    step s = .next (if s.outTransfer e then s.dropAction.sendSym e.lag else s.dropAction.passCycle) := by
  have hin' : s.dropAction.inTransfer e = false := hin
  have hout' : s.dropAction.outTransfer e = s.outTransfer e := rfl
  rw [step_edge ha hh]
  cases hout : s.outTransfer e <;> simp [clockEdge, hr, hc, hin', hout', hout, Plan.run]

/-- Settles O13: the decoder answers the operation that the state and the byte select, and the edge runs that one. -/
theorem portStepRunsDecodedOperation : Obligations.PortStepRunsDecodedOperation := by
  unfold Obligations.PortStepRunsDecodedOperation
  intro s e more i hc hf hpb ha hh hr hv hd
  rw [decode_selector, Decoded.op.injEq] at hd
  rw [step_edge_inTransfer hc ha hh ((inTransfer_iff s e).2 ⟨hr, hv, hpb, hf⟩), hd]
  simp [State.atPort, State.dropAction, hh]

/-- Settles O18: with no burst pending the port is ready, and the edge's step loads the burst. -/
theorem inputTransferLoadsBurst : Obligations.InputTransferLoadsBurst := by
  unfold Obligations.InputTransferLoadsBurst
  intro s e more hs hpb ha hh hr hv
  have ⟨_, _, hf⟩ := hs
  refine ⟨by simp [State.inReady, State.busy, hr, hpb, hf], ?_⟩
  rw [step_edge_loads hs ha hh ((inTransfer_iff s e).2 ⟨hr, hv, hpb, hf⟩)]
  simp [State.loadBurst, State.dropAction, encodeByte, ha, hh]

/-- Settles O55: the edge transfers a symbol and no byte. -/
theorem outputTransferSendsTheFirstSymbol : Obligations.OutputTransferSendsTheFirstSymbol := by
  unfold Obligations.OutputTransferSendsTheFirstSymbol
  intro s e more x xs hc ha hh hr hpb hw hready
  have hpending : s.pb ≠ [] := by simp [hpb]
  have hvalid : s.outValid e = true := (outValid_iff s e).2 ⟨hr, hpending, hw⟩
  have hout : s.outTransfer e = true := (outTransfer_iff s e).2 ⟨hvalid, hready⟩
  refine ⟨by simp [State.outSym, hvalid, hpb], ?_⟩
  rw [step_edge_noByte hc ha hh hr (inTransfer_of_pending hpending e), if_pos hout]
  simp [State.sendSym, State.dropAction, hh, hpb]

/-- Settles O54: each output is read off its definition; the latency decides `out_valid` alone. -/
theorem handshakeOutputsFollowTheState : Obligations.HandshakeOutputsFollowTheState := by
  unfold Obligations.HandshakeOutputsFollowTheState
  intro s e
  refine ⟨by simp [State.inReady, and_assoc], fun hr => by simp [State.busy, hr, List.length_pos_iff],
    fun hpb => by simp [State.outValid, hpb], Iff.rfl, fun x => ?_⟩
  cases hv : s.outValid e <;> simp [State.outSym, hv, List.head?_eq_getElem?]

/-- An edge without `rst` on an encoder that was never constructed is refused (notes/assumptions/21.md). -/
theorem constructed_of_step_edge {s t : State} {e : Edge} {more : List HostAction} (ha : s.activity = .waiting)
    (hh : s.host = .edge e :: more) (hr : e.rst = false) (h : step s = .next t) : s.constructed = true := by
  cases hc : s.constructed with
  | true => rfl
  | false => simp [step_edge ha hh, clockEdge, hr, hc, Plan.run] at h

/-- Settles O57: an edge that transfers no byte sends a symbol or lets a cycle pass, and neither writes `st`. -/
theorem stateChangesOnlyAtInputTransfers : Obligations.StateChangesOnlyAtInputTransfers := by
  unfold Obligations.StateChangesOnlyAtInputTransfers
  intro s t e more ha hh hr hstep
  refine ⟨fun hin => ?_, fun hpb => inTransfer_of_pending hpb e⟩
  rw [step_edge_noByte (constructed_of_step_edge ha hh hr hstep) ha hh hr hin] at hstep
  cases hstep
  split <;> exact ⟨rfl, rfl, rfl, rfl⟩

/-! ### A stalled consumer -/

/-- While the consumer takes nothing, a pending burst stands still and only its latency passes. -/
theorem runSteps_stalled {es : List Edge} {s : State} {more : List HostAction} (hc : s.constructed = true)
    (hpb : s.pb ≠ []) (hahead : s.edgesAhead es more) (hes : ∀ e ∈ es, e.rst = false ∧ e.outReady = false) :
    runSteps es.length s = .next { s with wait := s.wait - es.length, host := more } := by
  induction es generalizing s with
  | nil =>
    obtain ⟨-, hh⟩ := hahead
    simp [← show s.host = more from hh]
  | cons e es ih =>
    obtain ⟨ha, hh⟩ := hahead
    obtain ⟨⟨hr, hready⟩, hes⟩ := List.forall_mem_cons.1 hes
    have hout : s.outTransfer e = false := by simp [State.outTransfer, hready]
    have hstep := step_edge_noByte hc ha hh hr (inTransfer_of_pending hpb e)
    rw [hout, if_neg Bool.false_ne_true] at hstep
    rw [List.length_cons, runSteps_succ _ hstep,
      ih (s := s.dropAction.passCycle) hc hpb ⟨ha, congrArg List.tail hh⟩ hes]
    simp [State.passCycle, State.dropAction, Nat.sub_sub, Nat.add_comm 1]

/-- Settles O56: the stalled run keeps the burst, and a latency that has passed stays passed. -/
theorem stalledOutputLosesNothing : Obligations.StalledOutputLosesNothing := by
  unfold Obligations.StalledOutputLosesNothing
  intro es s more hc hpb hahead hes
  refine ⟨_, runSteps_stalled hc hpb hahead hes, rfl, rfl, fun e hr => ?_⟩
  refine ⟨by simp [State.busy, hr, hpb], by simp [State.inReady, State.busy, hr, hpb], fun hv => ?_⟩
  obtain ⟨-, -, hw⟩ := (outValid_iff s e).1 hv
  simp [State.outSym, State.outValid, hr, hpb, hw]

/-! ### Byte sequences -/

@[simp] theorem encodeBytes_nil (st : EncoderState) : encodeBytes st [] = (st, []) := rfl

theorem encodeBytes_append (st : EncoderState) (xs ys : List Byte) :
    encodeBytes st (xs ++ ys) = ((encodeBytes (encodeBytes st xs).1 ys).1,
      (encodeBytes st xs).2 ++ (encodeBytes (encodeBytes st xs).1 ys).2) := by
  induction xs generalizing st with
  | nil => rfl
  | cons x xs ih => simp [encodeBytes_cons, ih]

@[simp] theorem encodeBytes_fault (st : EncoderState) (bytes : List Byte) :
    (encodeBytes st bytes).1.fault = st.fault := by
  induction bytes generalizing st with
  | nil => rfl
  | cons b bytes ih => rw [encodeBytes_cons, ih, encodeByte_fault]

/-! ### The port sends the encoding of the bytes it takes -/

/-- From `s` to `t` the port has taken `bytes`, and their encoding has been sent or is pending. -/
structure State.Took (s : State) (bytes : List Byte) (t : State) : Prop where
  symbols : t.wire ++ t.pb = s.wire ++ s.pb ++ (encodeBytes s.st bytes).2
  st : t.st = (encodeBytes s.st bytes).1
  position : t.position = s.position + bytes.length
  results : t.results = s.results

theorem State.Took.refl (s : State) : s.Took [] s := ⟨by simp, rfl, rfl, rfl⟩

theorem State.Took.trans {s t u : State} {xs ys : List Byte} (hst : s.Took xs t) (htu : t.Took ys u) :
    s.Took (xs ++ ys) u := by
  refine ⟨?_, ?_, ?_, htu.results.trans hst.results⟩
  · rw [htu.symbols, hst.symbols, hst.st, encodeBytes_append, List.append_assoc]
  · rw [htu.st, hst.st, encodeBytes_append]
  · rw [htu.position, hst.position, List.length_append, Nat.add_assoc]

/-- One edge without `rst` on an able encoder: it takes the byte that it transfers, and the encoder stays able. -/
theorem step_edge_took {s : State} {e : Edge} {more : List HostAction} (hs : s.able) (ha : s.activity = .waiting)
    (hh : s.host = .edge e :: more) (hr : e.rst = false) :
    ∃ t, step s = .next t ∧ s.Took (if s.inTransfer e then [e.inData] else []) t ∧ t.able
      ∧ t.activity = .waiting ∧ t.host = more := by
  have htail : s.host.tail = more := congrArg List.tail hh
  cases hin : s.inTransfer e with
  | true =>
    obtain ⟨-, -, hpb, -⟩ := (inTransfer_iff s e).1 hin
    have hstep := step_edge_loads hs ha hh hin
    obtain ⟨hc, hw, hf⟩ := hs
    exact ⟨_, hstep, ⟨by simp [hpb, encodeBytes_cons], rfl, rfl, rfl⟩,
      ⟨hc, encodeByte_wf _ hw, (encodeByte_fault ..).trans hf⟩, rfl, htail⟩
  | false =>
    have ⟨hc, _, _⟩ := hs
    refine ⟨_, step_edge_noByte hc ha hh hr hin, ?_⟩
    cases hout : s.outTransfer e with
    | true =>
      have hpb : s.pb.head?.toList ++ s.pb.tail = s.pb := by cases s.pb <;> rfl
      exact ⟨⟨by simp [hpb], rfl, rfl, rfl⟩, hs, ha, htail⟩
    | false => exact ⟨⟨by simp, rfl, rfl, rfl⟩, hs, ha, htail⟩

theorem acceptedBytes_cons {s t : State} (e : Edge) (es : List Edge) (h : step s = .next t) :
    acceptedBytes (e :: es) s = (if s.inTransfer e then [e.inData] else []) ++ acceptedBytes es t := by
  simp [acceptedBytes, h]

theorem runSteps_edges_took {es : List Edge} {s : State} {more : List HostAction} (hs : s.able)
    (hahead : s.edgesAhead es more) (hes : ∀ e ∈ es, e.rst = false) :
    ∃ t, runSteps es.length s = .next t ∧ s.Took (acceptedBytes es s) t ∧ t.activity = .waiting
      ∧ t.host = more := by
  induction es generalizing s with
  | nil =>
    obtain ⟨ha, hh⟩ := hahead
    exact ⟨s, rfl, State.Took.refl s, ha, hh⟩
  | cons e es ih =>
    obtain ⟨ha, hh⟩ := hahead
    obtain ⟨hr, hes⟩ := List.forall_mem_cons.1 hes
    obtain ⟨t, hstep, htook, hable, hat, hht⟩ := step_edge_took hs ha hh hr
    obtain ⟨u, hrun, htook', hau, hhu⟩ := ih hable ⟨hat, hht⟩ hes
    rw [List.length_cons, runSteps_succ _ hstep, acceptedBytes_cons e es hstep]
    exact ⟨u, hrun, htook.trans htook', hau, hhu⟩

/-- Settles O58: by induction on the edges, each of which takes the byte that it transfers or none. -/
theorem portSendsWhatTheTransactionLevelSends : Obligations.PortSendsWhatTheTransactionLevelSends := by
  unfold Obligations.PortSendsWhatTheTransactionLevelSends
  intro es s more hs hahead hes
  obtain ⟨t, hrun, htook, hat, hht⟩ := runSteps_edges_took hs hahead hes
  exact ⟨t, hrun, htook.symbols, htook.st, htook.position, htook.results, hat, hht⟩

/-! ### ENCODE_CHUNK -/

/-- Settles O41: the length of a burst is eight symbols for each item of the operation. -/
theorem burstSizesAreFixed : Obligations.BurstSizesAreFixed := by
  unfold Obligations.BurstSizesAreFixed
  intro st
  refine ⟨serialize_operation_length .idleFill st, fun v => serialize_operation_length (.frameStart v) st,
    fun z v => serialize_operation_length (.payload z v) st,
    fun z v => serialize_operation_length (.payloadLast z v) st, fun i => ?_⟩
  rw [serialize_operation_length]
  have := burstSize_cases i
  omega

/-- Settles O43: the run of a call ends with the result of ENCODE_CHUNK, wherever in the chunk it stops reading. -/
theorem callRefinesEncodeChunk : Obligations.CallRefinesEncodeChunk := by
  unfold Obligations.CallRefinesEncodeChunk
  intro s c more hc hw ha hh
  obtain ⟨n, p, hn, hlo, hhi, hrun⟩ := runSteps_call hc hw ha hh
  refine ⟨n, _, hn, hrun, ?_, hlo, hhi⟩
  simp [State.returned, State.dropAction, ha, hh]

/-- Settles O48: the call opens an invocation with no byte, which returns at once. -/
theorem emptyChunkReturnsNothing : Obligations.EmptyChunkReturnsNothing := by
  unfold Obligations.EmptyChunkReturnsNothing
  refine ⟨fun cap st hf => by simp [encodeChunk, chunkLoop, hf], fun s more hc hf ha hh => ⟨2, ?_⟩⟩
  have hopen : s.dropAction.beginCall [] = { s.dropAction with activity := .invocation [] 0 [] } := by
    simp [State.beginCall, hf]
  have hret := step_return (s := { s.dropAction with activity := .invocation [] 0 [] }) rfl hf
  rw [runSteps_succ 1 (step_call ha hh hc), hopen, runSteps_succ 0 hret]
  simp [State.returnOk, State.dropAction, ha, hh]

/-- A loop that returns `Ok` has appended the bursts of all its bytes. -/
theorem chunkLoop_ok {cap : Option Nat} {k : Nat} {outc syms : List Sym} {st st' : EncoderState} {c : List Byte}
    (h : chunkLoop cap k outc st c = (st', .ok syms)) :
    st' = (encodeBytes st c).1 ∧ syms = outc ++ (encodeBytes st c).2 := by
  induction c generalizing k outc st with
  | nil =>
    cases h
    simp
  | cons b c ih =>
    cases hfit : fits cap outc.length (encodeByte st b).2.length with
    | true =>
      rw [chunkLoop_cons_fits k c hfit] at h
      simpa [encodeBytes_cons] using ih h
    | false => simp [chunkLoop_cons_exhausted k c hfit] at h

/-- A loop with room for all its bursts returns `Ok`. -/
theorem chunkLoop_of_room {cap : Option Nat} (k : Nat) {outc : List Sym} {st : EncoderState} {c : List Byte}
    (hroom : room cap outc.length (encodeBytes st c).2.length) :
    chunkLoop cap k outc st c = ((encodeBytes st c).1, .ok (outc ++ (encodeBytes st c).2)) := by
  induction c generalizing k outc st with
  | nil => simp [chunkLoop]
  | cons b c ih =>
    rw [encodeBytes_cons, List.length_append] at hroom
    rw [chunkLoop_cons_fits k c ((fits_iff ..).2 (room_mono hroom (Nat.le_add_right ..))),
      ih (k + 1) (by simpa [room, Nat.add_assoc] using hroom)]
    simp [encodeBytes_cons]

theorem encodeChunk_ok {cap : Option Nat} {st st' : EncoderState} {c : List Byte} {outc : List Sym}
    (h : encodeChunk cap st c = (st', .ok outc)) : encodeBytes st c = (st', outc) := by
  unfold encodeChunk at h
  split at h
  · cases h
  · obtain ⟨hst, houtc⟩ := chunkLoop_ok h
    exact (Prod.ext hst houtc).symm

theorem encodeChunk_of_room {cap : Option Nat} {st : EncoderState} {c : List Byte} (hf : st.fault = false)
    (hroom : room cap 0 (encodeBytes st c).2.length) :
    encodeChunk cap st c = ((encodeBytes st c).1, .ok (encodeBytes st c).2) := by
  simpa [encodeChunk, hf] using chunkLoop_of_room (outc := []) 0 hroom

/-- Settles O44: an `Ok` comes from the end of the loop, where all bursts have been appended. -/
theorem okChunkIsTheJoinedBursts : Obligations.OkChunkIsTheJoinedBursts := by
  unfold Obligations.OkChunkIsTheJoinedBursts
  exact fun _ _ _ _ _ h => (encodeChunk_ok h).symm

/-! ### The chunking law -/

theorem noFault_nil : noFault [] := fun _ _ => List.not_mem_nil

theorem noFault_cons_iff (r : CallResult) (rs : List CallResult) :
    noFault (r :: rs) ↔ (∃ outc, r = .ok outc) ∧ noFault rs := by
  cases r with
  | ok outc => simp [noFault]
  | fault n i =>
    have hfault : ¬noFault (.fault n i :: rs) := fun h => h n i List.mem_cons_self
    simp [hfault]

/-- With no capacity ENCODE_CHUNK returns the joined bursts (43_output_buffer.md R120). -/
theorem encodeChunk_none {st : EncoderState} (c : List Byte) (hf : st.fault = false) :
    encodeChunk none st c = ((encodeBytes st c).1, .ok (encodeBytes st c).2) :=
  encodeChunk_of_room hf nofun

theorem noFault_encodeChunks_none {st : EncoderState} (chunks : List (List Byte)) (hf : st.fault = false) :
    noFault (encodeChunks none st chunks).2 := by
  induction chunks generalizing st with
  | nil => exact noFault_nil
  | cons c cs ih =>
    rw [encodeChunks, encodeChunk_none c hf]
    exact (noFault_cons_iff ..).2 ⟨⟨_, rfl⟩, ih ((encodeBytes_fault st c).trans hf)⟩

/-- Calls that do not fault leave the state and return, joined, the symbols of their bytes in one sequence. -/
theorem encodeChunks_eq_encodeBytes {cap : Option Nat} {st : EncoderState} {chunks : List (List Byte)}
    (h : noFault (encodeChunks cap st chunks).2) :
    ((encodeChunks cap st chunks).1, returnedSyms (encodeChunks cap st chunks).2)
      = encodeBytes st chunks.flatten := by
  induction chunks generalizing st with
  | nil => rfl
  | cons c cs ih =>
    obtain ⟨⟨outc, hok⟩, hrest⟩ := (noFault_cons_iff ..).1 h
    have hbytes := encodeChunk_ok (Prod.ext rfl hok)
    rw [List.flatten_cons, encodeBytes_append, hbytes, ← ih hrest, encodeChunks, hok]
    rfl

/-- A call that does not fault returns the joined bursts. -/
theorem encodeChunk_of_noFault {cap : Option Nat} {st : EncoderState} {c : List Byte}
    (h : noFault [(encodeChunk cap st c).2]) :
    encodeChunk cap st c = ((encodeBytes st c).1, .ok (encodeBytes st c).2) := by
  obtain ⟨⟨outc, hok⟩, -⟩ := (noFault_cons_iff ..).1 h
  have hbytes := encodeChunk_ok (Prod.ext rfl hok)
  rw [hbytes]
  exact Prod.ext rfl hok

/-- Settles O45: the calls of a partition and one call of all bytes both give the bursts of the bytes in one sequence. -/
theorem chunkingDoesNotChangeTheOutput : Obligations.ChunkingDoesNotChangeTheOutput := by
  unfold Obligations.ChunkingDoesNotChangeTheOutput
  intro st chunks hf
  have hnone := noFault_encodeChunks_none chunks hf
  refine ⟨⟨hnone, ?_⟩, fun c h => ⟨encodeChunks_eq_encodeBytes h, fun hone => ?_⟩⟩
  · rw [encodeChunk_none _ hf, ← encodeChunks_eq_encodeBytes hnone]
  · rw [encodeChunk_of_noFault hone, ← encodeChunks_eq_encodeBytes h]

/-! ### The length of a chunk's output -/

theorem encodeBytes_cons_length (st : EncoderState) (b : Byte) (bs : List Byte) :
    (encodeBytes st (b :: bs)).2.length
      = burstSize (selected st b) + (encodeBytes (encodeByte st b).1 bs).2.length := by
  rw [encodeBytes_cons, List.length_append, encodeByte_length]

/-- Every burst has a group of eight; FRAME_START has 80 symbols more, PAYLOAD_LAST 32 more (R117). -/
theorem burstSize_selected (st : EncoderState) (b : Byte) :
    burstSize (selected st b) = 8 + 80 * (if st.idle && b != 0#8 then 1 else 0)
      + 32 * (if !st.idle && st.remaining == 1#8 then 1 else 0) := by
  cases hi : st.idle with
  | true => by_cases hb : b = 0#8 <;> simp [selected, burstSize, hi, hb]
  | false => by_cases hr : st.remaining = 1#8 <;> simp [selected, burstSize, hi, hr]

theorem encodeBytes_length (st : EncoderState) (c : List Byte) :
    (encodeBytes st c).2.length = 8 * c.length + 80 * countStarts st c + 32 * countLasts st c := by
  induction c generalizing st with
  | nil => rfl
  | cons b c ih =>
    rw [encodeBytes_cons_length, ih, burstSize_selected, countStarts, countLasts, List.length_cons]
    omega

/-- A byte in IDLE gives 8 symbols and leaves IDLE, or 88 and opens a frame. -/
theorem idle_byte_cases {st : EncoderState} (b : Byte) (hi : st.idle = true) :
    burstSize (selected st b) = 8 ∧ (encodeByte st b).1.idle = true
      ∨ burstSize (selected st b) = 88 ∧ (encodeByte st b).1.idle = false := by
  by_cases hb : b = 0#8
  · exact .inl (by simp [hb, selected_idleFill hi, encodeByte_idleFill hi, burstSize, hi])
  · exact .inr (by simp [selected_frameStart hi hb, encodeByte_frameStart hi hb, burstSize, opFrameStart])

/-- A byte inside a frame gives 8 symbols and stays, or 40 and closes the frame. -/
theorem inFrame_byte_cases {st : EncoderState} (b : Byte) (hi : st.idle = false) :
    burstSize (selected st b) = 8 ∧ (encodeByte st b).1.idle = false
      ∨ burstSize (selected st b) = 40 ∧ (encodeByte st b).1.idle = true := by
  by_cases hr : st.remaining = 1#8
  · exact .inr (by simp [selected_payloadLast b hi hr, encodeByte_payloadLast b hi hr, burstSize, opPayloadLast])
  · exact .inl (by simp [selected_payload b hi hr, encodeByte_payload b hi hr, burstSize, opPayload, hi])

/-- The bound of 43_output_buffer.md R122 for each frame state: an odd byte costs 24 symbols more than 64 from IDLE, where
it opens a frame, and 24 fewer inside a frame, where it closes one. -/
theorem encodeBytes_length_bounds (st : EncoderState) (c : List Byte) :
    (st.idle = true → (encodeBytes st c).2.length ≤ 64 * c.length + 24 * (c.length % 2))
      ∧ (st.idle = false → (encodeBytes st c).2.length + 24 * (c.length % 2) ≤ 64 * c.length) := by
  induction c generalizing st with
  | nil => simp
  | cons b c ih =>
    obtain ⟨hidle, hframe⟩ := ih (encodeByte st b).1
    rw [encodeBytes_cons_length, List.length_cons]
    refine ⟨fun hi => ?_, fun hi => ?_⟩
    · obtain ⟨hsize, hnext⟩ | ⟨hsize, hnext⟩ := idle_byte_cases b hi
      · have := hidle hnext
        omega
      · have := hframe hnext
        omega
    · obtain ⟨hsize, hnext⟩ | ⟨hsize, hnext⟩ := inFrame_byte_cases b hi
      · have := hframe hnext
        omega
      · have := hidle hnext
        omega

theorem encodeBytes_length_le (st : EncoderState) (c : List Byte) :
    (encodeBytes st c).2.length ≤ 64 * c.length + 24 * (c.length % 2) := by
  obtain ⟨hidle, hframe⟩ := encodeBytes_length_bounds st c
  cases hi : st.idle with
  | true => exact hidle hi
  | false =>
    have := hframe hi
    omega

/-- Bytes 0x01 open and close a frame in turn, from IDLE or with one byte owed, and reach the bound of each. -/
theorem encodeBytes_ones_length (st : EncoderState) (n : Nat) :
    (st.idle = true →
        (encodeBytes st (List.replicate n 0x01#8)).2.length = 64 * n + 24 * (n % 2))
      ∧ (st.idle = false → st.remaining = 1#8 →
        (encodeBytes st (List.replicate n 0x01#8)).2.length + 24 * (n % 2) = 64 * n) := by
  induction n generalizing st with
  | zero => simp
  | succ n ih =>
    rw [List.replicate_succ, encodeBytes_cons_length]
    refine ⟨fun hi => ?_, fun hi hr => ?_⟩
    · have hv : 0x01#8 ≠ 0#8 := by decide
      obtain ⟨-, hframe⟩ := ih (opFrameStart 0x01#8 st).1
      have := hframe rfl rfl
      simp only [selected_frameStart hi hv, encodeByte_frameStart hi hv, burstSize]
      omega
    · obtain ⟨hidle, -⟩ := ih (opPayloadLast 0x01#8 st).1
      have := hidle rfl
      simp only [selected_payloadLast _ hi hr, encodeByte_payloadLast _ hi hr, burstSize]
      omega

/-- Settles O46: the bound by induction on the bytes, sharper inside a frame than in IDLE. -/
theorem chunkOutputLength : Obligations.ChunkOutputLength := by
  unfold Obligations.ChunkOutputLength
  exact ⟨fun st c => ⟨encodeBytes_length st c, encodeBytes_length_le st c⟩,
    fun n => (encodeBytes_ones_length EncoderState.reset n).1 rfl⟩

/-! ### The fault bit -/

@[simp] theorem State.beginCall_st (c : List Byte) (s : State) : (s.beginCall c).st = s.st := by
  unfold State.beginCall
  split <;> rfl

theorem not_room_iff {cap : Option Nat} {used needed : Nat} :
    ¬room cap used needed ↔ ∃ c, cap = some c ∧ c < used + needed := by
  simp [room]

/-- A byte that sets the fault bit is one of an open invocation whose burst exceeds a finite capacity. -/
theorem State.ByteTo.exhausted {s t : State} {b : Byte} (h : s.ByteTo b t) (hf : s.st.fault = false)
    (hft : t.st.fault = true) :
    ∃ rest k outc c, s.activity = .invocation (b :: rest) k outc ∧ s.outCapacity = some c
      ∧ c < outc.length + burstSize (selected s.st b) := by
  cases h with
  | append ha hroom => simp [hf] at hft
  | exhaust ha hroom =>
    obtain ⟨c, hcap, hlt⟩ := not_room_iff.1 hroom
    exact ⟨_, _, _, c, ha, hcap, hlt⟩
  | load ha hpb => simp [hf] at hft

/-- Settles O53: of all that a step can do, only a byte writes a fault bit that was 0. -/
theorem onlyExhaustionSetsTheFault : Obligations.OnlyExhaustionSetsTheFault := by
  unfold Obligations.OnlyExhaustionSetsTheFault
  intro s t _ hstep hf hft
  cases State.stepTo_of_step hstep with
  | byte hs hb => exact ⟨_, hb.exhausted hf hft⟩
  | reset ha hh => simp [EncoderState.reset] at hft
  | stay ha hh => simp [hf] at hft
  | call ha hh hc => simp [hf] at hft
  | accept ha hh hr hin hs hpb => simp [hf] at hft
  | send ha hh hr hin hout => simp [hf] at hft
  | pass ha hh hr hin hout => simp [hf] at hft
  | ret ha hf' => simp [hf] at hft

end Sys2Proof.Machine

/-! Family 60_exceptions.md: the exception, the faulted encoder and the way back from it, and that no step stops in a
state of the invariant. -/

namespace Sys2Proof.Machine

/-! ### Taking the exception -/

/-- The operation that the next byte selects raises the exception where its burst has no room (60_exceptions.md R143). -/
theorem exec_selected_exhausts {s : State} {b : Byte} {rest : List Byte} {k : Nat} {outc : List Sym} (hs : s.able)
    (ha : s.activity = .invocation (b :: rest) k outc)
    (hroom : ¬room s.outCapacity outc.length (burstSize (selected s.st b))) :
    exec (selected s.st b) s = .next (s.raiseOutputExhausted
      (exhaustedInfo s.outCapacity k (burstSize (selected s.st b)) outc.length)) := by
  rw [← fits_burst_iff, Bool.not_eq_true] at hroom
  rw [← step_invocation_byte ha, step_invocation_commit hs ha, State.commit_exhausted _ ha hroom, encodeByte_length]

/-- Under a finite capacity the exception reports it (60_exceptions.md R140). -/
theorem exhaustedInfo_of_eq_some {cap : Option Nat} {c : Nat} (hcap : cap = some c) (k needed used : Nat) :
    exhaustedInfo cap k needed used = .exhausted k needed used c := by
  rw [hcap]
  rfl

/-- Settles O50: a burst that exceeds the capacity has no room, and the information names the capacity itself. -/
theorem exhaustionTakesTheFault : Obligations.ExhaustionTakesTheFault := by
  unfold Obligations.ExhaustionTakesTheFault
  refine ⟨fun n => by cases n; exact ⟨rfl, rfl⟩, fun s b rest k outc c hs ha hcap hlt => ?_⟩
  rw [exec_selected_exhausts hs ha (not_room_iff.2 ⟨c, hcap, hlt⟩), exhaustedInfo_of_eq_some hcap]
  rfl

/-! ### The faulted encoder -/

/-- A call of a faulted encoder returns the sticky fault and opens nothing (60_exceptions.md R143). -/
theorem State.beginCall_of_fault {s : State} (c : List Byte) (hf : s.st.fault = true) :
    s.beginCall c = s.giveResult (.fault .outputExhausted .sticky) :=
  if_pos hf

theorem inReady_of_fault {s : State} (e : Edge) (hf : s.st.fault = true) : s.inReady e = false := by
  simp [State.inReady, hf]

theorem final_of_fault {s : State} (hf : s.st.fault = true) : s.final = false := by
  simp [State.final, hf]

theorem runOutput_of_not_final {s : State} (h : s.final = false) : s.runOutput = none := by
  simp [State.runOutput, h]

/-- One faulted invocation takes away the output of the run (60_exceptions.md R143). -/
theorem runOutput_of_fault_mem {s : State} {n : ExceptionName} {info : FaultInfo}
    (h : .fault n info ∈ s.results) : s.runOutput = none := by
  have hall : s.results.all CallResult.isOk = false := List.all_eq_false.2 ⟨_, h, by simp [CallResult.isOk]⟩
  simp [State.runOutput, hall]

/-- Settles O51: the call adds one result and nothing else, and `in_ready` and the end of a run both need fault = 0. -/
theorem faultIsSticky : Obligations.FaultIsSticky := by
  unfold Obligations.FaultIsSticky
  refine ⟨fun s hc hf ha => ⟨fun c more hh => ?_, fun e => inReady_of_fault e hf⟩,
    fun s hf => ⟨final_of_fault hf, runOutput_of_not_final (final_of_fault hf)⟩,
    fun s n info h => runOutput_of_fault_mem h⟩
  have hf' : s.dropAction.st.fault = true := hf
  rw [step_call ha hh hc, State.beginCall_of_fault c hf']
  simp [State.giveResult, State.dropAction, hh]

/-- Settles O52: a byte is read only with fault = 0, and of all other things that a step can do only a reset writes `st`. -/
theorem onlyResetClearsTheFault : Obligations.OnlyResetClearsTheFault := by
  unfold Obligations.OnlyResetClearsTheFault
  intro s t hstep hf hft
  have hable : ¬s.able := fun ⟨_, _, h⟩ => by simp [hf] at h
  cases State.stepTo_of_step hstep with
  | reset ha hh => exact ⟨ha, hh.imp (fun h => ⟨_, h⟩) (fun ⟨e, h⟩ => ⟨e, _, h⟩)⟩
  | byte hs hb => exact absurd hs hable
  | accept ha hh hr hin hs hpb => exact absurd hs hable
  | stay ha hh => simp [hf] at hft
  | call ha hh hc => simp [hf] at hft
  | send ha hh hr hin hout => simp [hf] at hft
  | pass ha hh hr hin hout => simp [hf] at hft
  | ret ha hf' => simp [hf] at hf'

/-! ### No step stops -/

/-- Settles O26: with an empty queue the encoder waits. -/
theorem encoderHoldsStateWhileNothingHappens : Obligations.EncoderHoldsStateWhileNothingHappens := by
  unfold Obligations.EncoderHoldsStateWhileNothingHappens
  exact fun s ha hh => step_waiting ha hh

/-- In a state of the invariant Step is defined unless the encoder has faulted (40_frame_state_machine.md R74). -/
theorem State.Inv.able {s : State} (h : s.Inv) (hf : s.st.fault = false) : s.able := by
  obtain ⟨hc, hw, -⟩ := h
  exact ⟨hc, hw, hf⟩

theorem State.Inv.constructed {s : State} (h : s.Inv) : s.constructed = true := by
  obtain ⟨hc, -⟩ := h
  exact hc

theorem State.Inv.activityGood {s : State} (h : s.Inv) : s.activityGood := by
  obtain ⟨-, -, -, -, -, hact, -⟩ := h
  exact hact

/-- Every host action is taken, an edge with a byte on offer included (60_exceptions.md R141). -/
theorem State.Inv.exists_step_waiting {s : State} (h : s.Inv) (ha : s.activity = .waiting) :
    ∃ t, step s = .next t := by
  cases hh : s.host with
  | nil => exact ⟨_, step_waiting ha hh⟩
  | cons act more =>
    cases act with
    | reset => exact ⟨_, step_reset ha hh⟩
    | call c => exact ⟨_, step_call ha hh h.constructed⟩
    | edge e =>
      cases hr : e.rst with
      | true => exact ⟨_, step_edge_rst ha hh hr⟩
      | false =>
        cases hin : s.inTransfer e with
        | true =>
          obtain ⟨-, -, -, hf⟩ := (inTransfer_iff s e).1 hin
          exact ⟨_, step_edge_loads (h.able hf) ha hh hin⟩
        | false => exact ⟨_, step_edge_noByte h.constructed ha hh hr hin⟩

/-- An open invocation belongs to an encoder that has not faulted, so its byte is encoded and its return is made. -/
theorem State.Inv.exists_step_invocation {s : State} {rest : List Byte} {k : Nat} {outc : List Sym} (h : s.Inv)
    (ha : s.activity = .invocation rest k outc) : ∃ t, step s = .next t := by
  obtain ⟨hf, -, -⟩ := (State.activityGood_invocation_iff ha).1 h.activityGood
  cases rest with
  | nil => exact ⟨_, step_return ha hf⟩
  | cons b rest => exact ⟨_, step_invocation_commit (h.able hf) ha⟩

/-- Settles O25: a state of the invariant waits or is inside an invocation, and steps in both. -/
theorem everyStepIsDefined : Obligations.EveryStepIsDefined := by
  unfold Obligations.EveryStepIsDefined
  intro s h
  have hact := h.activityGood
  cases ha : s.activity with
  | waiting => exact h.exists_step_waiting ha
  | invocation rest k outc => exact h.exists_step_invocation ha
  | transfer data lag => simp [State.activityGood, ha] at hact
  | placedWord w => simp [State.activityGood, ha] at hact

end Sys2Proof.Machine

/-! Family 70_reset_and_hazards.md: a reset inside a frame, the host's two bounds (the capacity that a chunk needs
and the edges that a burst takes), an edge with `rst = 1`, and the encoder that was never constructed. -/

namespace Sys2Proof.Machine

/-! ### A reset inside a frame -/

theorem State.resetEncoder_able (s : State) : s.resetEncoder.able :=
  ⟨rfl, (by decide : EncoderState.reset.wf = true), rfl⟩

/-- A call of an encoder that has not faulted opens an invocation with an empty `OUTC` (43_output_buffer.md R119). -/
theorem State.beginCall_of_not_fault {s : State} (c : List Byte) (hf : s.st.fault = false) :
    s.beginCall c = { s with activity := .invocation c 0 [] } := by
  simp [State.beginCall, hf]

/-- FRAME_START opens a frame that owes `v` bytes, and sends the header and `v` (40_frame_state_machine.md R71). -/
theorem encodeByte_opens {st : EncoderState} {v : Byte} (hi : st.idle = true) (hv : v ≠ 0#8) :
    (encodeByte st v).1.idle = false ∧ (encodeByte st v).1.remaining = v
      ∧ (encodeByte st v).2 = serialize (headerItems ++ [.data v]) := by
  rw [encodeByte_frameStart hi hv]
  exact ⟨rfl, rfl, rfl⟩

/-- A call whose first byte has room for its burst opens the invocation and runs that byte (R119). -/
theorem runSteps_call_first {s : State} {b : Byte} {bs : List Byte} {more : List HostAction} (hs : s.able)
    (ha : s.activity = .waiting) (hh : s.host = .call (b :: bs) :: more)
    (hroom : room s.outCapacity 0 (burstSize (selected s.st b))) :
    runSteps 2 s = .next { s with
      st := (encodeByte s.st b).1
      position := s.position + 1
      activity := .invocation bs 1 (encodeByte s.st b).2
      host := more } := by
  have ⟨hc, _, hf⟩ := hs
  have hopen := State.beginCall_of_not_fault (s := s.dropAction) (b :: bs) hf
  have hbyte := (step_invocation_byte rfl).trans
    (exec_selected_appends (s := { s.dropAction with activity := .invocation (b :: bs) 0 [] }) hs rfl hroom)
  rw [runSteps_succ 1 (step_call ha hh hc), hopen, runSteps_succ 0 hbyte]
  simp [State.appendBurst, State.dropAction, hh]

/-- Settles O4: each level resets, and in the reset state the next nonzero byte is a FRAME_START. -/
theorem resetAbandonsOpenFrame : Obligations.ResetAbandonsOpenFrame := by
  unfold Obligations.ResetAbandonsOpenFrame
  intro s v more ha hv
  have hs := s.dropAction.resetEncoder_able
  obtain ⟨hidle, hrem, hsyms⟩ := encodeByte_opens (st := EncoderState.reset) rfl hv
  refine ⟨fun bs hh hroom => ?_, fun e e' hh hr hr' hvalid hdata => ?_⟩
  · have hcall : s.dropAction.resetEncoder.host = .call (v :: bs) :: more := by simp [hh]
    have hsize : burstSize (selected EncoderState.reset v) = 88 := by rw [selected_frameStart rfl hv]; rfl
    rw [runSteps_succ 2 (step_reset ha hh), runSteps_call_first hs ha hcall (hsize ▸ hroom)]
    exact ⟨_, rfl, congrArg (Activity.invocation bs 1) hsyms, hidle, hrem, rfl, rfl, rfl⟩
  · have hedge : s.dropAction.resetEncoder.host = .edge e' :: more := by simp [hh]
    have hin := (inTransfer_iff s.dropAction.resetEncoder e').2 ⟨hr', hvalid, rfl, rfl⟩
    rw [runSteps_succ 1 (step_edge_rst ha hh hr), runSteps_succ 0 (step_edge_loads hs ha hedge hin), hdata]
    exact ⟨_, rfl, hsyms, hidle, hrem, rfl, rfl⟩

/-! ### The capacity that a chunk needs -/

/-- A loop whose bursts do not all fit faults, if what it has appended so far fits. -/
theorem chunkLoop_of_not_room {cap : Option Nat} (k : Nat) {outc : List Sym} {st : EncoderState} {c : List Byte}
    (hused : room cap outc.length 0) (hroom : ¬room cap outc.length (encodeBytes st c).2.length) :
    ∃ info, (chunkLoop cap k outc st c).2 = .fault .outputExhausted info := by
  induction c generalizing k outc st with
  | nil => exact absurd hused hroom
  | cons b c ih =>
    cases hfit : fits cap outc.length (encodeByte st b).2.length with
    | true =>
      rw [encodeBytes_cons, List.length_append] at hroom
      rw [chunkLoop_cons_fits k c hfit]
      exact ih (k + 1) (room_append ((fits_iff ..).1 hfit)) (by simpa [room, Nat.add_assoc] using hroom)
    | false =>
      rw [chunkLoop_cons_exhausted k c hfit]
      exact ⟨_, rfl⟩

theorem encodeChunk_of_not_room {cap : Option Nat} {st : EncoderState} {c : List Byte} (hf : st.fault = false)
    (hroom : ¬room cap 0 (encodeBytes st c).2.length) :
    ∃ info, (encodeChunk cap st c).2 = .fault .outputExhausted info := by
  simpa [encodeChunk, hf] using chunkLoop_of_not_room (outc := []) 0 (fun _ _ => Nat.zero_le _) hroom

/-- Settles O47: no output of `n` bytes is longer than the bound, and `n` bytes 0x01 from reset reach it. -/
theorem statedCapacityIsEnough : Obligations.StatedCapacityIsEnough := by
  unfold Obligations.StatedCapacityIsEnough
  refine ⟨fun st c cap hf hcap => encodeChunk_of_room hf ?_, fun n cap hcap => ?_⟩
  · have hlen := encodeBytes_length_le st c
    rintro _ ⟨⟩
    omega
  · obtain ⟨hlen, -⟩ := encodeBytes_ones_length EncoderState.reset n
    have hroom : ¬room (some cap) 0 (encodeBytes EncoderState.reset (List.replicate n 0x01#8)).2.length :=
      not_room_iff.2 ⟨cap, rfl, by rw [hlen rfl]; omega⟩
    obtain ⟨info, hfault⟩ := encodeChunk_of_not_room rfl hroom
    exact ⟨_, info, List.length_replicate, hfault⟩

/-! ### The edges that a burst takes -/

/-- With latency 0 throughout, a consumer that is always ready takes one pending symbol an edge. -/
theorem runSteps_drained {es : List Edge} {s : State} {more : List HostAction} (hc : s.constructed = true)
    (hwait : s.wait = 0) (hahead : s.edgesAhead es more) (hlen : es.length = s.pb.length)
    (hes : ∀ e ∈ es, e.rst = false ∧ e.outReady = true ∧ e.lag = 0) :
    runSteps es.length s = .next { s with pb := [], wait := 0, wire := s.wire ++ s.pb, host := more } := by
  induction es generalizing s with
  | nil =>
    obtain ⟨-, hh⟩ := hahead
    have hnil := List.eq_nil_of_length_eq_zero hlen.symm
    rw [List.length_nil, runSteps_zero, ← show s.host = more from hh, hnil, List.append_nil, ← hnil, ← hwait]
  | cons e es ih =>
    obtain ⟨ha, hh⟩ := hahead
    obtain ⟨⟨hr, hready, hlag⟩, hes⟩ := List.forall_mem_cons.1 hes
    obtain ⟨x, xs, hpb⟩ := List.exists_cons_of_length_eq_add_one hlen.symm
    have hpending : s.pb ≠ [] := by simp [hpb]
    have hout := (outTransfer_iff s e).2 ⟨(outValid_iff s e).2 ⟨hr, hpending, hwait⟩, hready⟩
    have hstep := step_edge_noByte hc ha hh hr (inTransfer_of_pending hpending e)
    rw [if_pos hout] at hstep
    rw [List.length_cons, runSteps_succ _ hstep, ih (s := s.dropAction.sendSym e.lag) hc hlag
      ⟨ha, congrArg List.tail hh⟩ (by simpa [hpb] using hlen) hes]
    simp [State.sendSym, State.dropAction, hpb]

/-- Settles O59: the burst drains, and the pending symbols are the given ones. -/
theorem readyConsumerDrainsTheBurst : Obligations.ReadyConsumerDrainsTheBurst := by
  unfold Obligations.ReadyConsumerDrainsTheBurst
  rintro _ es s more hc rfl hwait hahead hlen hes
  exact runSteps_drained hc hwait hahead hlen hes

/-! ### An edge with `rst = 1` -/

/-- Settles O3: each output and each transfer needs `rst = 0`, and the edge's step is a reset, after which nothing keeps
`in_ready` at 0. -/
theorem portResetDiscardsBurst : Obligations.PortResetDiscardsBurst := by
  unfold Obligations.PortResetDiscardsBurst
  intro s e more ha hh hr
  have hvalid : s.outValid e = false := by simp [State.outValid, hr]
  refine ⟨⟨by simp [State.inReady, hr], hvalid, by simp [State.busy, hr], by simp [State.inTransfer, hr],
    by simp [State.outTransfer, hvalid]⟩, _, step_edge_rst ha hh hr, rfl, rfl, rfl, by simp [hh], fun e' hr' => ?_⟩
  simp [State.inReady, State.busy, hr', EncoderState.reset]

/-! ### The encoder that was never constructed -/

theorem step_call_notConstructed {s : State} {c : List Byte} {more : List HostAction} (ha : s.activity = .waiting)
    (hh : s.host = .call c :: more) (hc : s.constructed = false) : step s = .refused .notConstructed := by
  simp [step, Plan.run, plan, ha, hh, hc]

theorem step_edge_notConstructed {s : State} {e : Edge} {more : List HostAction} (ha : s.activity = .waiting)
    (hh : s.host = .edge e :: more) (hr : e.rst = false) (hc : s.constructed = false) :
    step s = .refused .notConstructed := by
  simp [step_edge ha hh, clockEdge, hr, hc, Plan.run]

theorem exec_notConstructed {s : State} {i : Instr} (hi : i.wf = true) (hc : s.constructed = false) :
    exec i s = .refused .notConstructed := by
  simp [exec_eq_perform, perform, hi, hc]

/-- Settles O5: a call, an edge without `rst` and every well-formed operation look at `constructed` first. -/
theorem unconstructedIsRefused : Obligations.UnconstructedIsRefused := by
  unfold Obligations.UnconstructedIsRefused
  exact fun s hc => ⟨fun c more ha hh => step_call_notConstructed ha hh hc,
    fun e more ha hh hr => step_edge_notConstructed ha hh hr hc, fun i hi => exec_notConstructed hi hc⟩

end Sys2Proof.Machine
